-- ==== Sys2Proof/Word.lean ====
section
/-!
DEFINITION. The bit widths that 00_scope.md R6 names, and the bit operations on them that the model uses everywhere.
-/
namespace Sys2Proof

/-- A byte (R6). -/
abbrev Byte := BitVec 8
/-- A half, 16 bits (R6). -/
abbrev Half := BitVec 16
/-- A word, 32 bits; an instruction word is one word (R6). -/
abbrev Word := BitVec 32
/-- A double, 64 bits (R6). -/
abbrev DWord := BitVec 64

end Sys2Proof
end

