-- ==== Sys2Proof/Syntax.lean ====
section
/-!
DEFINITION. The syntax of Wilet: one constructor of `Instr` for each row of the table of operations and events
(spec/opcode_table.json). The first 153 are instruction words (08_encoding_and_assembly.md); the rest are the steps of the
machine's engines and of its outside agents (95_what_each_step_holds.md), each with what identifies the object it acts on.
-/
namespace Sys2Proof

/-- A 6-bit operand field under R60: class 0 with its register number, or class 1 with a port, a tap, or one of the twelve
reserved indices 20-31. -/
inductive Fld where
  /-- class 0, index n: an x or k register, a predicate number, as the opcode states -/
  | r (n : Fin 32)
  /-- class 1, index 0-15: port q n -/
  | q (n : Fin 16)
  /-- class 1, index 16-19: tap e n -/
  | e (n : Fin 4)
  /-- class 1, index 20 + n: reserved -/
  | rsv (n : Fin 12)
deriving DecidableEq, Repr

/-- A source field together with its peek bit (R201) and its k-selector (R205), in the combinations that decode. -/
inductive Src where
  | x (n : Fin 32)
  | k (n : Fin 32)
  | pop (n : Fin 16)
  | peek (n : Fin 16)
  | tap (n : Fin 4)
  | rsv (n : Fin 12)
deriving DecidableEq, Repr

/-- The element types of lmode.TYPE (R63), in the order of their codes 0x00 to 0x11. -/
inductive Ty where
  | s32 | n32 | s16 | n16 | s8 | n8 | s64 | n64
  | f32 | f64 | f16 | bf16 | e4m3 | e5m2 | e2m1 | e8m0 | i8 | i4
deriving DecidableEq, Repr

/-- Conditions of ICMP (R236). -/
inductive Cmp where
  | eq | ne | lt | le | gt | ge
deriving DecidableEq, Repr

/-- Conditions of FCMP (R244). -/
inductive FCmp where
  | eq | ne | lt | le | gt | ge | un | ord
deriving DecidableEq, Repr

/-- Widths of loads and stores (R206). -/
inductive Width where
  | b | h | w | d
deriving DecidableEq, Repr

/-- Tag modes of scratchpad and gallery loads (R206); `acq` reads as `any`. -/
inductive TagMode where
  | any | take | keep | acq
deriving DecidableEq, Repr

/-- Scopes of fences and releases (R173). A release names one other than `line`. -/
inductive Scope where
  | line | set | hall | dev | dom
deriving DecidableEq, Repr

/-- Operations of the atomics (R206, R267). -/
inductive AtomOp where
  | add | min | max | and | or | xor | xchg | cas | fadd | fmin | fmax
deriving DecidableEq, Repr

/-- Ordering suffix of an atomic (R269). -/
inductive Ordering where
  | relaxed | acq | rel | acqrel
deriving DecidableEq, Repr

/-- The scale option of HAD32 (R250). -/
inductive HadScale where
  | one | div32 | orth
deriving DecidableEq, Repr

/-- What RDTID reads (R255). -/
inductive TidSel where
  | thread | line | set | hall
deriving DecidableEq, Repr

/-- A set: its grid (numbered by the model in the order in which packets are read) and its set index (R46). -/
structure SetRef where
  grid : Nat
  set  : Nat
deriving DecidableEq, Repr

/-- A line: its set and its line index (R39). -/
structure LineRef where
  grid : Nat
  set  : Nat
  line : Nat
deriving DecidableEq, Repr

/-- What firmware asks of the package: requests that R419 bounds, and its measurements. -/
inductive FwRequest where
  /-- a core clock, in 50 MHz units -/
  | clock (units : Nat)
  /-- a core voltage, in mV -/
  | voltage (mv : Nat)
  /-- a laser launch power per wavelength, in mW -/
  | laser (mw : Nat)
  /-- a limit of package power, in mW -/
  | power (mw : Nat)
  /-- a junction temperature at which to throttle, in °C -/
  | throttle (celsius : Nat)
  /-- flits that a port may send in 1,024 ticks -/
  | injection (flits : Nat)
  /-- to disable fault records, PCI Express error reporting or the lifetime counters -/
  | silence
  /-- to read the fused Ed448 key, or to sign with another one -/
  | deviceKey
  /-- an access to host memory of `len` bytes at `addr` -/
  | host (addr len : Nat) (write : Bool) (data : List Byte)
  /-- the measurement of a later firmware stage before it runs, or of firmware configuration (R415) -/
  | measure (config : Bool) (data : List Byte)
deriving DecidableEq, Repr

/-- What the host link addresses: device memory by physical address, the host's own memory, or a register of the function of a
partition, in BAR 0 or BAR 2 (R180, R364). -/
inductive HostPlace where
  | dev (addr : Nat)
  | host (addr : Nat)
  | bar (part : Nat) (bar2 : Bool) (off : Nat)
  /-- the NumVFs field of the physical function's SR-IOV capability (R364) -/
  | numVfs
  /-- the bring-up status word over the package sideband (R420) -/
  | sideband
deriving DecidableEq, Repr

/-- The rows of the table of operations and events. -/
inductive Instr where
  -- major 0x01 INT (R231)
  | add (d : Fld) (a b : Src)
  | sub (d : Fld) (a b : Src)
  | mul (d : Fld) (a b : Src)
  | mulhi (d : Fld) (a b : Src)
  | min (d : Fld) (a b : Src)
  | max (d : Fld) (a b : Src)
  | abs (d : Fld) (a : Src)
  | sad (d : Fld) (a b : Src)
  -- major 0x02 LOGIC (R235)
  | and (d : Fld) (a b : Src)
  | or (d : Fld) (a b : Src)
  | xor (d : Fld) (a b : Src)
  | andn (d : Fld) (a b : Src)
  | orn (d : Fld) (a b : Src)
  | xnor (d : Fld) (a b : Src)
  | shl (d : Fld) (a b : Src)
  | shr (d : Fld) (a b : Src)
  | sra (d : Fld) (a b : Src)
  | rotl (d : Fld) (a b : Src)
  | popc (d : Fld) (a : Src)
  | clz (d : Fld) (a : Src)
  | brev (d : Fld) (a : Src)
  -- majors 0x03-0x05
  | icmp (c : Cmp) (d : Fld) (a b : Src)
  | fcmp (c : FCmp) (d : Fld) (a b : Src)
  | sel (inv : Bool) (p : Fin 8) (d : Fld) (a b : Src)
  -- major 0x06 FARITH (R239)
  | fadd (d : Fld) (a b : Src)
  | fsub (d : Fld) (a b : Src)
  | fmul (d : Fld) (a b : Src)
  | ffma (d : Fld) (a b : Src)
  | ffms (d : Fld) (a b : Src)
  | fmin (d : Fld) (a b : Src)
  | fmax (d : Fld) (a b : Src)
  | fabs (d : Fld) (a : Src)
  | fneg (d : Fld) (a : Src)
  | fclass (d : Fld) (a : Src)
  | fsgnj (d : Fld) (a b : Src)
  -- major 0x07 SFU (R245)
  | rcp (d : Fld) (a : Src)
  | rsqrt (d : Fld) (a : Src)
  | exp2 (d : Fld) (a : Src)
  | log2 (d : Fld) (a : Src)
  | sin (d : Fld) (a : Src)
  | cos (d : Fld) (a : Src)
  -- major 0x08 CVT (R246): `t` names the destination type, code 0x00 to 0x0B
  | cvt (t : Ty) (d : Fld) (a : Src)
  -- major 0x09 QUANT (R248-R254)
  | qcvtE4m3 (d : Fld) (a : Src)
  | qcvtE5m2 (d : Fld) (a : Src)
  | qcvtE2m1 (d : Fld) (a : Fld)
  | qcvtI8 (d : Fld) (a b : Src)
  | qcvtI4 (d : Fld) (a b : Src)
  | srndE4m3 (d a b : Fld)
  | srndE5m2 (d a b : Fld)
  | srndE2m1 (d a b : Fld)
  | srndBf16 (d a b : Fld)
  | srndF16 (d a b : Fld)
  | qrange (i4 : Bool) (d : Fld) (a b : Src)
  | had32 (sc : HadScale) (d : Fld) (a : Fld)
  | xseed (e : Fin 4) (a b : Fld)
  -- major 0x0A MOVE (R255)
  | mov (d : Fld) (a : Src)
  | movxk (d a : Fld)
  | movkx (d a : Fld)
  | rdfp (d : Fld)
  | wrfp (a : Fld)
  | rdks (d : Fld)
  | wrks (a : Fld)
  | rdlm (d : Fld)
  | p2x (d : Fld)
  | x2p (a : Fld)
  | rdtid (s : TidSel) (d : Fld)
  | rdtime (d : Fld)
  -- formats I and K (R232-R234)
  | addi (d a : Fld) (imm : BitVec 14)
  | andi (d a : Fld) (imm : BitVec 14)
  | ori (d a : Fld) (imm : BitVec 14)
  | xori (d a : Fld) (imm : BitVec 14)
  | shli (d a : Fld) (n : Fin 64)
  | shri (d a : Fld) (n : Fin 64)
  | srai (d a : Fld) (n : Fin 64)
  | addki (d a : Fld) (imm : BitVec 14)
  | lui (d : Fld) (imm : BitVec 20)
  | luik (d : Fld) (imm : BitVec 20)
  | mode (imm : BitVec 16)
  -- memory (R206, R263-R269)
  | lds (t : TagMode) (wd : Width) (sx : Bool) (d a b : Fld)
  | sts (rel : Option Scope) (fill : Bool) (wd : Width) (d a b : Fld)
  | ldgal (t : TagMode) (wd : Width) (sx : Bool) (d a b : Fld)
  | stgal (rel : Option Scope) (fill : Bool) (wd : Width) (d a b : Fld)
  | ldg (acq : Bool) (wd : Width) (sx : Bool) (d a b : Fld)
  | stg (rel : Option Scope) (wd : Width) (d a b : Fld)
  | ldp (acq : Bool) (wd : Width) (sx : Bool) (d a b : Fld)
  | stp (rel : Option Scope) (wd : Width) (d a b : Fld)
  | ats (op : AtomOp) (o : Ordering) (d a b : Fld)
  | atgal (op : AtomOp) (o : Ordering) (d a b : Fld)
  | atg (op : AtomOp) (o : Ordering) (d a b : Fld)
  | atp (op : AtomOp) (o : Ordering) (d a b : Fld)
  | redp (d a b : Fld)
  | fdrain (a : Fld)
  | sqstat (d a : Fld)
  | fence (s : Scope)
  | qfence (m : BitVec 6)
  | ifence
  | barinit (gal : Bool) (a b : Fld)
  | bararrive (gal : Bool) (a b : Fld)
  | barwait (gal : Bool) (d a : Fld)
  | barinv (gal : Bool) (a : Fld)
  | waita (gal : Bool) (a : Fld)
  | copy (n : Fin 4) (d a : Fld)
  | patset (a : Fld) (slot : Fin 32)
  | sbind (wr : Bool) (d : Fld) (slot : Fin 32)
  | seos (d a : Fld)
  | srel (a : Fld)
  | spos (d a : Fld)
  | sskip (a b : Fld)
  -- major 0x25 MATRIX (R289)
  | setstair (a : Fld)
  | mloadb (a b : Fld)
  | mswap
  | mma (t : Fin 4) (a b : Fld)
  | mmaPort (t : Fin 4) (a b : Fld)
  | mmas (a b : Fld)
  | mdrain (t : Fin 4) (a b : Fld)
  | mzero (t : Fin 4)
  | mstat (clr : Bool) (d : Fld) (m : Fin 32)
  | qdset (a : Fld)
  -- control (R313)
  | jmp (o : BitVec 26)
  | call (o : BitVec 26)
  | rcv (o : BitVec 26)
  | br (p : Fin 8) (inv : Bool) (o : BitVec 22)
  | jr (a : Fld)
  | callr (d a : Fld)
  | exit
  | kill
  | yield
  | grow (d a : Fld)
  | nop
  | trap (code : Fin 32)
  | scall (service : Fin 32)
  -- major 0x2B KALU (R238)
  | kadd (d a b : Fld)
  | ksub (d a b : Fld)
  | kmul (d a b : Fld)
  | kand (d a b : Fld)
  | kor (d a b : Fld)
  | kxor (d a b : Fld)
  | kshl (d a b : Fld)
  | kshr (d a b : Fld)
  | ksra (d a b : Fld)
  | kmin (d a b : Fld)
  | kmax (d a b : Fld)
  -- major 0x3E PRIV (R369)
  | prd (d a : Fld)
  | pwr (a b : Fld)
  | cxrd (d a : Fld)
  | cxwr (a b : Fld)
  | lresume (d a : Fld) (disp : Fin 4)
  | ftset (a b : Fld)
  | ftcommit (a b : Fld)
  | rgset (a b : Fld)
  | rgphase (a b : Fld)
  | spreempt (d a : Fld)
  | qctl (d a : Fld) (op : Fin 4)
  -- trap entry, fetch, issue (R370, R147, R36)
  | pendingBitSet (handle : Nat)
  | instructionFetch (r : LineRef)
  | starvation (r : LineRef)
  -- matrix and drain engines (R292-R312), block instructions (R249)
  | mmaIssue (r : LineRef)
  | mmaComplete (s : SetRef)
  | mloadbComplete (s : SetRef)
  | matrixQueueEffect (core : Nat)
  | drainOperation (core : Nat)
  | mmasOperation (core : Nat)
  | blockWrite (r : LineRef)
  -- memory system (R150-R197)
  | bankServe (core bank : Nat)
  | slicePerform (id : Nat)
  | acknowledgementReturn (id : Nat)
  | loadReturn (id : Nat)
  | leaseExpiry (core line : Nat)
  | l1Evict (core line : Nat)
  | l2Evict (line : Nat)
  | writeConfirmed (id : Nat)
  | releasePerform (id : Nat)
  | fenceComplete (r : LineRef)
  -- copy engines (R161-R163, R280)
  | copyStart (core queue : Nat)
  | copyElement (core queue : Nat)
  | copyComplete (core queue : Nat)
  -- translation (R399-R409)
  | walk (id : Nat)
  | tlbLeaseExpiry (n : Nat)
  -- fabric (R330-R353, R431-R432)
  | slotStart (part : Nat)
  | flitSend (port : Nat)
  | flitReceive (port : Nat) (bytes : List Byte)
  | write (n : Nat)
  | maskedWrite (n : Nat)
  | readRequest (n : Nat)
  | readCompletion (n : Nat)
  | atomic (n : Nat)
  | atomicResult (n : Nat)
  | reductionContribution (n : Nat)
  | acknowledgement (n : Nat)
  | refusal (n : Nat)
  | reservedTypePacket (n : Nat)
  | holdExpiry (n : Nat)
  | resend (n : Nat)
  | drainMarkerAck (n : Nat)
  | holdPoint (part : Nat)
  | darkPhase (part : Nat)
  | tableEpoch (part : Nat)
  | relockFailure (port : Nat)
  | portModeSwitch (port : Nat)
  | keySwitch (part peer : Nat)
  -- scheduler (R386-R398)
  | tailWrite (q : Nat) (v : Word)
  | errClear (q : Nat)
  | packetRead (q : Nat)
  | dependenceRead (q : Nat)
  | dependencePoll (q : Nat)
  | startTimestamp (q : Nat)
  | placement (die : Nat)
  | linesResident (s : SetRef)
  | contextSave (s : SetRef)
  | contextRestore (s : SetRef)
  | completionRecord (g : Nat)
  | completionSignal (g : Nat)
  | signalPacket (q : Nat)
  -- host (R180, R363)
  | hostWrite (p : HostPlace) (data : List Byte) (posted : Bool)
  | hostRead (p : HostPlace) (len : Nat)
  | hostCxrd (part : Nat)
  | hostCxwr (part : Nat)
  | hostLresume (part : Nat)
  | hostSpreempt (part : Nat)
  | hostQctl (part : Nat)
  | cmdopInvalid (part : Nat) (op : Fin 16)
  -- registers with behaviour (R366-R371, R412-R413)
  | frenWrite (part : Nat) (v : Word)
  | kbindWrite (part : Nat) (v : Word)
  | pmodeWrite (part : Nat) (v : Word)
  | penWrite (part : Nat) (v : Word)
  | registerWrite (part : Nat) (bar2 : Bool) (off : Nat) (v : Word)
  -- attestation (R415-R418): `v` is the word written to OP
  | extend (part : Nat) (v : Word)
  | quote (part : Nat) (v : Word)
  | newkey (part : Nat) (v : Word)
  | agree (part : Nat) (v : Word)
  | revoke (part : Nat) (v : Word)
  | cert (part : Nat) (v : Word)
  -- bring-up, time base, power, lifetime records (R420-R430)
  | bringupStep (ok : Bool) (data : List Byte)
  | freeWrite (v : Word)
  | domidWrite (v : Word)
  | syncMessage (offset : Int)
  | powerCheck (milliwatts hottest : Nat)
  | thermalTrip (hottest : Nat)
  | shut (v : Word)
  -- decode fault, firmware, lifetime seconds (R203, R419, R429)
  | illegalInstruction (w : Word)
  | firmwareRequest (q : FwRequest)
  | powerOnSecond (temps : Nat × Nat) (fixes : List Nat)
  -- steps without arguments of bring-up and of the lifetime records (R420 to R430)
  | powerOn
  | syncTimeout
  | recordWrite
  | recordWriteDone
  | powerFail
deriving DecidableEq, Repr

end Sys2Proof
end

