-- ==== Sys2Proof/Decode.lean ====
section
/-!
DEFINITION. The decoder of 08_encoding_and_assembly.md (formats of R200, operand fields of R60 and R201, the opcode map of R203
to R210 with the tables of the instruction chapters), total on any bytes and rejecting by name, and after it the encoder written
from the same tables. A rejected word is one that takes the illegal-instruction fault at step 1 or 3 of R211; the checks of
step 2 (privilege), 4 (operands) and 5 (TYPE, width) depend on the line and are made when the instruction issues.
-/
namespace Sys2Proof

/-- Why a word is not an instruction (steps 1 and 3 of R211). -/
inductive DecodeError where
  /-- fewer than four bytes were given -/
  | truncated
  /-- R203: majors 0x00, 0x2C-0x3D and 0x3F -/
  | unassignedMajor
  /-- R204, R206, R207, R369: a minor that the tables do not assign -/
  | unassignedMinor
  /-- R204, R206, R207: a sub value that the tables do not assign -/
  | unassignedSub
  /-- R201, R204, R207: a set must-be-zero bit, unused field or literal bit [5] -/
  | mustBeZero
  /-- R201: a set peek bit on a field that is no port operand -/
  | peekBit
  /-- R205: a set k-selector on a class-1 field -/
  | kSelector
  /-- R208: a SYNC selector 3-15, a scope code 5-7 -/
  | unassignedSync
  /-- R202: SHI kind 3 -/
  | shiftKind
  /-- R62: a MODE immediate with an unassigned TYPE or RM -/
  | modeField
  /-- R289, R369: a literal outside the range of its table -/
  | literalRange
deriving DecidableEq, Repr

/-! ## Fields -/

/-- Bits [lo + len - 1 : lo] of a word, as a number. -/
def bitsAt (w lo len : Nat) : Nat := w / 2 ^ lo % 2 ^ len

/-- The operand field of a 6-bit code (R60). -/
def Fld.ofCode (c : Nat) : Fld :=
  if c % 64 < 32 then .r (Fin.ofNat 32 (c % 64))
  else if c % 64 < 48 then .q (Fin.ofNat 16 (c % 64 - 32))
  else if c % 64 < 52 then .e (Fin.ofNat 4 (c % 64 - 48))
  else .rsv (Fin.ofNat 12 (c % 64 - 52))

/-- The 6-bit code of an operand field (R60). -/
def Fld.code : Fld → Nat
  | .r n => n.val
  | .q n => 32 + n.val
  | .e n => 48 + n.val
  | .rsv n => 52 + n.val

/-- The source that a field, its peek bit and its k-selector name (R201, R205), when they may stand together. -/
def Src.ofCode (c pk ks : Nat) : Except DecodeError Src :=
  match Fld.ofCode c with
  | .r n =>
    if pk % 2 = 1 then .error .peekBit
    else .ok (if ks % 2 = 1 then .k n else .x n)
  | .q n =>
    if ks % 2 = 1 then .error .kSelector
    else .ok (if pk % 2 = 1 then .peek n else .pop n)
  | .e n =>
    if pk % 2 = 1 then .error .peekBit
    else if ks % 2 = 1 then .error .kSelector
    else .ok (.tap n)
  | .rsv n =>
    if pk % 2 = 1 then .error .peekBit
    else if ks % 2 = 1 then .error .kSelector
    else .ok (.rsv n)

/-- The 6-bit code of a source's field. -/
def Src.code : Src → Nat
  | .x n => n.val
  | .k n => n.val
  | .pop n => 32 + n.val
  | .peek n => 32 + n.val
  | .tap n => 48 + n.val
  | .rsv n => 52 + n.val

/-- The peek bit of a source (R201). -/
def Src.pk : Src → Nat
  | .peek _ => 1
  | _ => 0

/-- The k-selector of a source (R205). -/
def Src.ks : Src → Nat
  | .k _ => 1
  | _ => 0

/-- TYPE codes (R63). -/
def Ty.ofCode : Nat → Option Ty
  | 0x00 => some .s32 | 0x01 => some .n32 | 0x02 => some .s16 | 0x03 => some .n16
  | 0x04 => some .s8 | 0x05 => some .n8 | 0x06 => some .s64 | 0x07 => some .n64
  | 0x08 => some .f32 | 0x09 => some .f64 | 0x0A => some .f16 | 0x0B => some .bf16
  | 0x0C => some .e4m3 | 0x0D => some .e5m2 | 0x0E => some .e2m1 | 0x0F => some .e8m0
  | 0x10 => some .i8 | 0x11 => some .i4 | _ => none

/-- TYPE codes (R63). -/
def Ty.code : Ty → Nat
  | .s32 => 0x00 | .n32 => 0x01 | .s16 => 0x02 | .n16 => 0x03
  | .s8 => 0x04 | .n8 => 0x05 | .s64 => 0x06 | .n64 => 0x07
  | .f32 => 0x08 | .f64 => 0x09 | .f16 => 0x0A | .bf16 => 0x0B
  | .e4m3 => 0x0C | .e5m2 => 0x0D | .e2m1 => 0x0E | .e8m0 => 0x0F
  | .i8 => 0x10 | .i4 => 0x11

/-- minor of ICMP (R236). -/
def Cmp.ofCode : Nat → Option Cmp
  | 0 => some .eq | 1 => some .ne | 2 => some .lt | 3 => some .le | 4 => some .gt | 5 => some .ge | _ => none

/-- minor of ICMP (R236). -/
def Cmp.code : Cmp → Nat
  | .eq => 0 | .ne => 1 | .lt => 2 | .le => 3 | .gt => 4 | .ge => 5

/-- minor of FCMP (R244). -/
def FCmp.ofCode : Nat → Option FCmp
  | 0 => some .eq | 1 => some .ne | 2 => some .lt | 3 => some .le | 4 => some .gt | 5 => some .ge
  | 6 => some .un | 7 => some .ord | _ => none

/-- minor of FCMP (R244). -/
def FCmp.code : FCmp → Nat
  | .eq => 0 | .ne => 1 | .lt => 2 | .le => 3 | .gt => 4 | .ge => 5 | .un => 6 | .ord => 7

/-- minor[1:0] of loads and stores (R206). -/
def Width.ofCode (c : Nat) : Width :=
  match c % 4 with
  | 0 => .b | 1 => .h | 2 => .w | _ => .d

/-- minor[1:0] of loads and stores (R206). -/
def Width.code : Width → Nat
  | .b => 0 | .h => 1 | .w => 2 | .d => 3

/-- minor[3:2] of LDS and LDGAL (R206). -/
def TagMode.ofCode (c : Nat) : TagMode :=
  match c % 4 with
  | 0 => .any | 1 => .take | 2 => .keep | _ => .acq

/-- minor[3:2] of LDS and LDGAL (R206). -/
def TagMode.code : TagMode → Nat
  | .any => 0 | .take => 1 | .keep => 2 | .acq => 3

/-- Scope codes of FENCE (R173). -/
def Scope.ofCode : Nat → Option Scope
  | 0 => some .line | 1 => some .set | 2 => some .hall | 3 => some .dev | 4 => some .dom | _ => none

/-- Scope codes of FENCE (R173). -/
def Scope.code : Scope → Nat
  | .line => 0 | .set => 1 | .hall => 2 | .dev => 3 | .dom => 4

/-- The scope in the sub field of a store marked .rel (R206). -/
def Scope.ofRelCode (c : Nat) : Scope :=
  match c % 4 with
  | 0 => .set | 1 => .hall | 2 => .dev | _ => .dom

/-- The scope in the sub field of a store marked .rel (R206). -/
def Scope.relCode : Scope → Nat
  | .line => 0 | .set => 0 | .hall => 1 | .dev => 2 | .dom => 3

/-- minor of the atomics (R206). -/
def AtomOp.ofCode : Nat → Option AtomOp
  | 0 => some .add | 1 => some .min | 2 => some .max | 3 => some .and | 4 => some .or | 5 => some .xor
  | 6 => some .xchg | 7 => some .cas | 8 => some .fadd | 9 => some .fmin | 10 => some .fmax | _ => none

/-- minor of the atomics (R206). -/
def AtomOp.code : AtomOp → Nat
  | .add => 0 | .min => 1 | .max => 2 | .and => 3 | .or => 4 | .xor => 5
  | .xchg => 6 | .cas => 7 | .fadd => 8 | .fmin => 9 | .fmax => 10

/-- sub of the atomics (R206). -/
def Ordering.ofCode (c : Nat) : Ordering :=
  match c % 4 with
  | 0 => .relaxed | 1 => .acq | 2 => .rel | _ => .acqrel

/-- sub of the atomics (R206). -/
def Ordering.code : Ordering → Nat
  | .relaxed => 0 | .acq => 1 | .rel => 2 | .acqrel => 3

/-- sub of HAD32 (R250). -/
def HadScale.ofCode : Nat → Option HadScale
  | 0 => some .one | 1 => some .div32 | 2 => some .orth | _ => none

/-- sub of HAD32 (R250). -/
def HadScale.code : HadScale → Nat
  | .one => 0 | .div32 => 1 | .orth => 2

/-- sub of RDTID (R204). -/
def TidSel.ofCode (c : Nat) : TidSel :=
  match c % 4 with
  | 0 => .thread | 1 => .line | 2 => .set | _ => .hall

/-- sub of RDTID (R204). -/
def TidSel.code : TidSel → Nat
  | .thread => 0 | .line => 1 | .set => 2 | .hall => 3

/-! ## Format A -/

/-- The fields of a format A word (R200). -/
structure FormatA where
  minor : Nat
  d : Nat
  a : Nat
  b : Nat
  pka : Nat
  pkb : Nat
  sub : Nat
deriving DecidableEq, Repr

/-- The format A fields of a word (R200). -/
def FormatA.ofWord (w : Nat) : FormatA :=
  { minor := bitsAt w 22 4, d := bitsAt w 16 6, a := bitsAt w 10 6, b := bitsAt w 4 6,
    pka := bitsAt w 3 1, pkb := bitsAt w 2 1, sub := bitsAt w 0 2 }

/-- A word of a major from its format A fields (R200). -/
def wordA (major minor d a b pka pkb sub : Nat) : Nat :=
  major * 0x4000000 + minor * 0x400000 + d * 0x10000 + a * 0x400 + b * 0x10 + pka * 8 + pkb * 4 + sub

/-- The field number that a code gives, as an operand field. -/
abbrev fldOf (c : Nat) : Fld := Fld.ofCode c

/-- `guardMbz c i`: the word is `i` when the must-be-zero bits `c` are zero. -/
def guardMbz (c : Nat) (i : Instr) : Except DecodeError Instr :=
  if c = 0 then .ok i else .error .mustBeZero

/-- Two sources with k-selectors (majors 0x01 to 0x06). -/
def binK (f : FormatA) (mk : Fld → Src → Src → Instr) : Except DecodeError Instr :=
  match Src.ofCode f.a f.pka (f.sub / 2), Src.ofCode f.b f.pkb (f.sub % 2) with
  | .ok a, .ok b => .ok (mk (fldOf f.d) a b)
  | .error e, _ => .error e
  | _, .error e => .error e

/-- One source with a k-selector; b, pkb and sub[0] must be zero (R201, R205). -/
def unK (f : FormatA) (mk : Fld → Src → Instr) : Except DecodeError Instr :=
  if f.b + f.pkb + f.sub % 2 = 0 then
    match Src.ofCode f.a f.pka (f.sub / 2) with
    | .ok a => .ok (mk (fldOf f.d) a)
    | .error e => .error e
  else .error .mustBeZero

/-- One source without a k-selector; b, pkb and sub must be zero. -/
def un (f : FormatA) (mk : Fld → Src → Instr) : Except DecodeError Instr :=
  if f.b + f.pkb + f.sub = 0 then
    match Src.ofCode f.a f.pka 0 with
    | .ok a => .ok (mk (fldOf f.d) a)
    | .error e => .error e
  else .error .mustBeZero

/-- Two sources without k-selectors, sub given apart. -/
def bin (f : FormatA) (mk : Fld → Src → Src → Instr) : Except DecodeError Instr :=
  match Src.ofCode f.a f.pka 0, Src.ofCode f.b f.pkb 0 with
  | .ok a, .ok b => .ok (mk (fldOf f.d) a b)
  | .error e, _ => .error e
  | _, .error e => .error e

/-- Fields d, a, b of class-0 instructions; the peek bits and `sub` must be zero. -/
def plain (f : FormatA) (sub : Nat) (i : Instr) : Except DecodeError Instr :=
  guardMbz (f.pka + f.pkb + sub) i

/-- major 0x01 (R204). -/
def decodeInt (f : FormatA) : Except DecodeError Instr :=
  match f.minor with
  | 0 => binK f .add | 1 => binK f .sub | 2 => binK f .mul | 3 => binK f .mulhi
  | 4 => binK f .min | 5 => binK f .max | 6 => unK f .abs | 7 => binK f .sad
  | _ => .error .unassignedMinor

/-- major 0x02 (R204). -/
def decodeLogic (f : FormatA) : Except DecodeError Instr :=
  match f.minor with
  | 0 => binK f .and | 1 => binK f .or | 2 => binK f .xor | 3 => binK f .andn | 4 => binK f .orn
  | 5 => binK f .xnor | 6 => binK f .shl | 7 => binK f .shr | 8 => binK f .sra | 9 => binK f .rotl
  | 10 => unK f .popc | 11 => unK f .clz | 12 => unK f .brev
  | _ => .error .unassignedMinor

/-- majors 0x03 and 0x04 (R204). -/
def decodeIcmp (f : FormatA) : Except DecodeError Instr :=
  match Cmp.ofCode f.minor with
  | some c => binK f (.icmp c)
  | none => .error .unassignedMinor

/-- major 0x04 (R204). -/
def decodeFcmp (f : FormatA) : Except DecodeError Instr :=
  match FCmp.ofCode f.minor with
  | some c => binK f (.fcmp c)
  | none => .error .unassignedMinor

/-- major 0x05 (R204, R237). -/
def decodeSel (f : FormatA) : Except DecodeError Instr :=
  binK f (.sel (decide (f.minor / 8 = 1)) (Fin.ofNat 8 (f.minor % 8)))

/-- major 0x06 (R204). -/
def decodeFarith (f : FormatA) : Except DecodeError Instr :=
  match f.minor with
  | 0 => binK f .fadd | 1 => binK f .fsub | 2 => binK f .fmul | 3 => binK f .ffma | 4 => binK f .ffms
  | 5 => binK f .fmin | 6 => binK f .fmax | 7 => unK f .fabs | 8 => unK f .fneg | 9 => unK f .fclass
  | 10 => binK f .fsgnj
  | _ => .error .unassignedMinor

/-- major 0x07 (R204). -/
def decodeSfu (f : FormatA) : Except DecodeError Instr :=
  match f.minor with
  | 0 => unK f .rcp | 1 => unK f .rsqrt | 2 => unK f .exp2 | 3 => unK f .log2 | 4 => unK f .sin | 5 => unK f .cos
  | _ => .error .unassignedMinor

/-- major 0x08 (R204, R246). -/
def decodeCvt (f : FormatA) : Except DecodeError Instr :=
  if f.minor < 12 then
    match Ty.ofCode f.minor with
    | some t => un f (.cvt t)
    | none => .error .unassignedMinor
  else .error .unassignedMinor

/-- major 0x09 (R204). -/
def decodeQuant (f : FormatA) : Except DecodeError Instr :=
  match f.minor with
  | 0 => un f .qcvtE4m3
  | 1 => un f .qcvtE5m2
  | 2 => plain f (f.b + f.sub) (.qcvtE2m1 (fldOf f.d) (fldOf f.a))
  | 3 => if f.sub = 0 then bin f .qcvtI8 else .error .unassignedSub
  | 4 => if f.sub = 0 then bin f .qcvtI4 else .error .unassignedSub
  | 5 => plain f f.sub (.srndE4m3 (fldOf f.d) (fldOf f.a) (fldOf f.b))
  | 6 => plain f f.sub (.srndE5m2 (fldOf f.d) (fldOf f.a) (fldOf f.b))
  | 7 => plain f f.sub (.srndE2m1 (fldOf f.d) (fldOf f.a) (fldOf f.b))
  | 8 => plain f f.sub (.srndBf16 (fldOf f.d) (fldOf f.a) (fldOf f.b))
  | 9 => plain f f.sub (.srndF16 (fldOf f.d) (fldOf f.a) (fldOf f.b))
  | 10 => if f.sub < 2 then bin f (.qrange (decide (f.sub = 1))) else .error .unassignedSub
  | 11 =>
    match HadScale.ofCode f.sub with
    | some s => plain f f.b (.had32 s (fldOf f.d) (fldOf f.a))
    | none => .error .unassignedSub
  | 12 => plain f f.d (.xseed (Fin.ofNat 4 f.sub) (fldOf f.a) (fldOf f.b))
  | _ => .error .unassignedMinor

/-- major 0x0A (R204, R255). -/
def decodeMove (f : FormatA) : Except DecodeError Instr :=
  match f.minor with
  | 0 => un f .mov
  | 1 => plain f (f.b + f.sub) (.movxk (fldOf f.d) (fldOf f.a))
  | 2 => plain f (f.b + f.sub) (.movkx (fldOf f.d) (fldOf f.a))
  | 3 => plain f (f.a + f.b + f.sub) (.rdfp (fldOf f.d))
  | 4 => plain f (f.d + f.b + f.sub) (.wrfp (fldOf f.a))
  | 5 => plain f (f.a + f.b + f.sub) (.rdks (fldOf f.d))
  | 6 => plain f (f.d + f.b + f.sub) (.wrks (fldOf f.a))
  | 7 => plain f (f.a + f.b + f.sub) (.rdlm (fldOf f.d))
  | 8 => plain f (f.a + f.b + f.sub) (.p2x (fldOf f.d))
  | 9 => plain f (f.d + f.b + f.sub) (.x2p (fldOf f.a))
  | 10 => plain f (f.a + f.b) (.rdtid (TidSel.ofCode f.sub) (fldOf f.d))
  | 11 => plain f (f.a + f.b + f.sub) (.rdtime (fldOf f.d))
  | _ => .error .unassignedMinor

/-- A release mark and its scope: without .rel, sub must be zero (R206). -/
def relOf (isRel : Bool) (sub : Nat) : Except DecodeError (Option Scope) :=
  if isRel then .ok (some (Scope.ofRelCode sub))
  else if sub = 0 then .ok none else .error .unassignedSub

/-- The .sx bit of a load: sub[1] is zero, and .sx stands with .b and .h only (R206). -/
def sxOf (wd sub : Nat) : Except DecodeError Bool :=
  if sub = 0 then .ok false
  else if sub = 1 ∧ wd % 4 < 2 then .ok true
  else .error .unassignedSub

/-- majors 0x14 and 0x16 (R206). -/
def decodeTagLoad (f : FormatA) (mk : TagMode → Width → Bool → Fld → Fld → Fld → Instr) : Except DecodeError Instr :=
  match sxOf f.minor f.sub with
  | .ok sx => plain f 0 (mk (TagMode.ofCode (f.minor / 4)) (Width.ofCode f.minor) sx (fldOf f.d) (fldOf f.a) (fldOf f.b))
  | .error e => .error e

/-- majors 0x18 and 0x1A (R206). -/
def decodeLoad (f : FormatA) (mk : Bool → Width → Bool → Fld → Fld → Fld → Instr) : Except DecodeError Instr :=
  if f.minor / 4 = 0 ∨ f.minor / 4 = 3 then
    match sxOf f.minor f.sub with
    | .ok sx => plain f 0 (mk (decide (f.minor / 4 = 3)) (Width.ofCode f.minor) sx (fldOf f.d) (fldOf f.a) (fldOf f.b))
    | .error e => .error e
  else .error .unassignedMinor

/-- majors 0x15 and 0x17 (R206). -/
def decodeTagStore (f : FormatA) (mk : Option Scope → Bool → Width → Fld → Fld → Fld → Instr) : Except DecodeError Instr :=
  match relOf (decide (f.minor / 8 = 1)) f.sub with
  | .ok rel => plain f 0 (mk rel (decide (f.minor / 4 % 2 = 1)) (Width.ofCode f.minor) (fldOf f.d) (fldOf f.a) (fldOf f.b))
  | .error e => .error e

/-- majors 0x19 and 0x1B (R206). -/
def decodeStore (f : FormatA) (mk : Option Scope → Width → Fld → Fld → Fld → Instr) : Except DecodeError Instr :=
  if f.minor / 4 % 2 = 0 then
    match relOf (decide (f.minor / 8 = 1)) f.sub with
    | .ok rel => plain f 0 (mk rel (Width.ofCode f.minor) (fldOf f.d) (fldOf f.a) (fldOf f.b))
    | .error e => .error e
  else .error .unassignedMinor

/-- majors 0x1C to 0x1F (R206). -/
def decodeAtomic (f : FormatA) (mk : AtomOp → Ordering → Fld → Fld → Fld → Instr) : Except DecodeError Instr :=
  match AtomOp.ofCode f.minor with
  | some op => plain f 0 (mk op (Ordering.ofCode f.sub) (fldOf f.d) (fldOf f.a) (fldOf f.b))
  | none => .error .unassignedMinor

/-- major 0x20 (R207). -/
def decodeFab (f : FormatA) : Except DecodeError Instr :=
  match f.minor with
  | 0 => plain f f.sub (.redp (fldOf f.d) (fldOf f.a) (fldOf f.b))
  | 1 => plain f (f.d + f.b + f.sub) (.fdrain (fldOf f.a))
  | 2 => plain f (f.b + f.sub) (.sqstat (fldOf f.d) (fldOf f.a))
  | _ => .error .unassignedMinor

/-- major 0x22 (R207): sub[0] selects the gallery, sub[1] is zero. -/
def decodeBar (f : FormatA) : Except DecodeError Instr :=
  if f.sub < 2 then
    match f.minor with
    | 0 => plain f f.d (.barinit (decide (f.sub = 1)) (fldOf f.a) (fldOf f.b))
    | 1 => plain f f.d (.bararrive (decide (f.sub = 1)) (fldOf f.a) (fldOf f.b))
    | 2 => plain f f.b (.barwait (decide (f.sub = 1)) (fldOf f.d) (fldOf f.a))
    | 3 => plain f (f.d + f.b) (.barinv (decide (f.sub = 1)) (fldOf f.a))
    | 4 => plain f (f.d + f.b) (.waita (decide (f.sub = 1)) (fldOf f.a))
    | _ => .error .unassignedMinor
  else .error .unassignedSub

/-- major 0x23 (R207, R278). -/
def decodeCopy (f : FormatA) : Except DecodeError Instr :=
  if f.minor < 4 then plain f (f.b + f.sub) (.copy (Fin.ofNat 4 f.minor) (fldOf f.d) (fldOf f.a))
  else .error .unassignedMinor

/-- A literal field 0-31: bit [5] must be zero (R201). -/
def litOf (c : Nat) : Except DecodeError (Fin 32) :=
  if c < 32 then .ok (Fin.ofNat 32 c) else .error .mustBeZero

/-- major 0x24 (R207). -/
def decodeStream (f : FormatA) : Except DecodeError Instr :=
  match f.minor with
  | 0 =>
    match litOf f.b with
    | .ok n => plain f (f.d + f.sub) (.patset (fldOf f.a) n)
    | .error e => .error e
  | 1 =>
    match litOf f.b with
    | .ok n => if f.sub < 2 then plain f f.a (.sbind (decide (f.sub = 1)) (fldOf f.d) n) else .error .unassignedSub
    | .error e => .error e
  | 2 => plain f (f.b + f.sub) (.seos (fldOf f.d) (fldOf f.a))
  | 3 => plain f (f.d + f.b + f.sub) (.srel (fldOf f.a))
  | 4 => plain f (f.b + f.sub) (.spos (fldOf f.d) (fldOf f.a))
  | 5 => plain f (f.d + f.sub) (.sskip (fldOf f.a) (fldOf f.b))
  | _ => .error .unassignedMinor

/-- A tile literal 0-3 (R207, R289). -/
def tileOf (c : Nat) : Except DecodeError (Fin 4) :=
  if c < 4 then .ok (Fin.ofNat 4 c) else .error .literalRange

/-- major 0x25 (R207, R289). -/
def decodeMatrix (f : FormatA) : Except DecodeError Instr :=
  match f.minor with
  | 0 => plain f (f.d + f.b + f.sub) (.setstair (fldOf f.a))
  | 1 => plain f (f.d + f.sub) (.mloadb (fldOf f.a) (fldOf f.b))
  | 2 => plain f (f.d + f.a + f.b + f.sub) .mswap
  | 3 =>
    match tileOf f.d with
    | .ok t =>
      if f.sub = 0 then plain f 0 (.mma t (fldOf f.a) (fldOf f.b))
      else if f.sub = 1 then plain f 0 (.mmaPort t (fldOf f.a) (fldOf f.b))
      else .error .unassignedSub
    | .error e => .error e
  | 4 => plain f (f.d + f.sub) (.mmas (fldOf f.a) (fldOf f.b))
  | 5 =>
    match tileOf f.d with
    | .ok t => plain f f.sub (.mdrain t (fldOf f.a) (fldOf f.b))
    | .error e => .error e
  | 6 =>
    match tileOf f.d with
    | .ok t => plain f (f.a + f.b + f.sub) (.mzero t)
    | .error e => .error e
  | 7 =>
    match litOf f.b with
    | .ok m => if f.sub < 2 then plain f f.a (.mstat (decide (f.sub = 1)) (fldOf f.d) m) else .error .unassignedSub
    | .error e => .error e
  | 8 => plain f (f.d + f.b + f.sub) (.qdset (fldOf f.a))
  | _ => .error .unassignedMinor

/-- major 0x2A (R207, R313). -/
def decodeCtrl (f : FormatA) : Except DecodeError Instr :=
  match f.minor with
  | 0 => plain f (f.d + f.b + f.sub) (.jr (fldOf f.a))
  | 1 => plain f (f.b + f.sub) (.callr (fldOf f.d) (fldOf f.a))
  | 2 => plain f (f.d + f.a + f.b + f.sub) .exit
  | 3 => plain f (f.d + f.a + f.b + f.sub) .kill
  | 4 => plain f (f.d + f.a + f.b + f.sub) .yield
  | 5 => plain f (f.b + f.sub) (.grow (fldOf f.d) (fldOf f.a))
  | 6 => plain f (f.d + f.a + f.b + f.sub) .nop
  | 7 =>
    match litOf f.b with
    | .ok n => plain f (f.d + f.a + f.sub) (.trap n)
    | .error e => .error e
  | 8 =>
    match litOf f.b with
    | .ok n => plain f (f.d + f.a + f.sub) (.scall n)
    | .error e => .error e
  | _ => .error .unassignedMinor

/-- major 0x2B (R204, R238). -/
def decodeKalu (f : FormatA) : Except DecodeError Instr :=
  match f.minor with
  | 0 => plain f f.sub (.kadd (fldOf f.d) (fldOf f.a) (fldOf f.b))
  | 1 => plain f f.sub (.ksub (fldOf f.d) (fldOf f.a) (fldOf f.b))
  | 2 => plain f f.sub (.kmul (fldOf f.d) (fldOf f.a) (fldOf f.b))
  | 3 => plain f f.sub (.kand (fldOf f.d) (fldOf f.a) (fldOf f.b))
  | 4 => plain f f.sub (.kor (fldOf f.d) (fldOf f.a) (fldOf f.b))
  | 5 => plain f f.sub (.kxor (fldOf f.d) (fldOf f.a) (fldOf f.b))
  | 6 => plain f f.sub (.kshl (fldOf f.d) (fldOf f.a) (fldOf f.b))
  | 7 => plain f f.sub (.kshr (fldOf f.d) (fldOf f.a) (fldOf f.b))
  | 8 => plain f f.sub (.ksra (fldOf f.d) (fldOf f.a) (fldOf f.b))
  | 9 => plain f f.sub (.kmin (fldOf f.d) (fldOf f.a) (fldOf f.b))
  | 10 => plain f f.sub (.kmax (fldOf f.d) (fldOf f.a) (fldOf f.b))
  | _ => .error .unassignedMinor

/-- A literal field 0-3 (R369, R377). -/
def lit4Of (c : Nat) : Except DecodeError (Fin 4) :=
  if c < 4 then .ok (Fin.ofNat 4 c) else .error .literalRange

/-- major 0x3E (R369). -/
def decodePriv (f : FormatA) : Except DecodeError Instr :=
  match f.minor with
  | 0 => plain f (f.b + f.sub) (.prd (fldOf f.d) (fldOf f.a))
  | 1 => plain f (f.d + f.sub) (.pwr (fldOf f.a) (fldOf f.b))
  | 2 => plain f (f.b + f.sub) (.cxrd (fldOf f.d) (fldOf f.a))
  | 3 => plain f (f.d + f.sub) (.cxwr (fldOf f.a) (fldOf f.b))
  | 4 =>
    match lit4Of f.b with
    | .ok n => plain f f.sub (.lresume (fldOf f.d) (fldOf f.a) n)
    | .error e => .error e
  | 5 => plain f (f.d + f.sub) (.ftset (fldOf f.a) (fldOf f.b))
  | 6 => plain f (f.d + f.sub) (.ftcommit (fldOf f.a) (fldOf f.b))
  | 7 => plain f (f.d + f.sub) (.rgset (fldOf f.a) (fldOf f.b))
  | 8 => plain f (f.d + f.sub) (.rgphase (fldOf f.a) (fldOf f.b))
  | 9 => plain f (f.b + f.sub) (.spreempt (fldOf f.d) (fldOf f.a))
  | 10 =>
    match lit4Of f.b with
    | .ok n => plain f f.sub (.qctl (fldOf f.d) (fldOf f.a) n)
    | .error e => .error e
  | _ => .error .unassignedMinor

/-! ## The other formats -/

/-- major 0x0F (R202, R232). -/
def decodeShi (w : Nat) : Except DecodeError Instr :=
  if bitsAt w 6 6 = 0 then
    match bitsAt w 12 2 with
    | 0 => .ok (.shli (fldOf (bitsAt w 20 6)) (fldOf (bitsAt w 14 6)) (Fin.ofNat 64 (bitsAt w 0 6)))
    | 1 => .ok (.shri (fldOf (bitsAt w 20 6)) (fldOf (bitsAt w 14 6)) (Fin.ofNat 64 (bitsAt w 0 6)))
    | 2 => .ok (.srai (fldOf (bitsAt w 20 6)) (fldOf (bitsAt w 14 6)) (Fin.ofNat 64 (bitsAt w 0 6)))
    | _ => .error .shiftKind
  else .error .mustBeZero

/-- A format I word with an imm14 (R200). -/
def immI (w : Nat) (mk : Fld → Fld → BitVec 14 → Instr) : Except DecodeError Instr :=
  .ok (mk (fldOf (bitsAt w 20 6)) (fldOf (bitsAt w 14 6)) (BitVec.ofNat 14 w))

/-- The MODE immediate assigns every field (R62): TYPE at most 0x11, RM at most 5. -/
def modeOk (imm : Nat) : Bool := decide (bitsAt imm 4 5 < 18) && decide (bitsAt imm 9 3 < 6)

/-- major 0x13 (R62, R234): d and imm20[19:16] are zero. -/
def decodeMode (w : Nat) : Except DecodeError Instr :=
  if bitsAt w 16 10 = 0 then
    if modeOk (bitsAt w 0 16) then .ok (.mode (BitVec.ofNat 16 w)) else .error .modeField
  else .error .mustBeZero

/-- major 0x21 (R208). -/
def decodeSync (w : Nat) : Except DecodeError Instr :=
  if bitsAt w 20 6 = 0 then
    match bitsAt w 16 4 with
    | 0 =>
      if bitsAt w 3 13 = 0 then
        match Scope.ofCode (bitsAt w 0 3) with
        | some s => .ok (.fence s)
        | none => .error .unassignedSync
      else .error .mustBeZero
    | 1 => if bitsAt w 6 10 = 0 then .ok (.qfence (BitVec.ofNat 6 w)) else .error .mustBeZero
    | 2 => guardMbz (bitsAt w 0 16) .ifence
    | _ => .error .unassignedSync
  else .error .mustBeZero

/-- The instruction of a word (R203), or why there is none. -/
def decodeWord (word : Word) : Except DecodeError Instr :=
  let w := word.toNat
  let f := FormatA.ofWord w
  match bitsAt w 26 6 with
  | 0x01 => decodeInt f
  | 0x02 => decodeLogic f
  | 0x03 => decodeIcmp f
  | 0x04 => decodeFcmp f
  | 0x05 => decodeSel f
  | 0x06 => decodeFarith f
  | 0x07 => decodeSfu f
  | 0x08 => decodeCvt f
  | 0x09 => decodeQuant f
  | 0x0A => decodeMove f
  | 0x0B => immI w .addi
  | 0x0C => immI w .andi
  | 0x0D => immI w .ori
  | 0x0E => immI w .xori
  | 0x0F => decodeShi w
  | 0x10 => immI w .addki
  | 0x11 => .ok (.lui (fldOf (bitsAt w 20 6)) (BitVec.ofNat 20 w))
  | 0x12 => .ok (.luik (fldOf (bitsAt w 20 6)) (BitVec.ofNat 20 w))
  | 0x13 => decodeMode w
  | 0x14 => decodeTagLoad f .lds
  | 0x15 => decodeTagStore f .sts
  | 0x16 => decodeTagLoad f .ldgal
  | 0x17 => decodeTagStore f .stgal
  | 0x18 => decodeLoad f .ldg
  | 0x19 => decodeStore f .stg
  | 0x1A => decodeLoad f .ldp
  | 0x1B => decodeStore f .stp
  | 0x1C => decodeAtomic f .ats
  | 0x1D => decodeAtomic f .atgal
  | 0x1E => decodeAtomic f .atg
  | 0x1F => decodeAtomic f .atp
  | 0x20 => decodeFab f
  | 0x21 => decodeSync w
  | 0x22 => decodeBar f
  | 0x23 => decodeCopy f
  | 0x24 => decodeStream f
  | 0x25 => decodeMatrix f
  | 0x26 => .ok (.jmp (BitVec.ofNat 26 w))
  | 0x27 => .ok (.call (BitVec.ofNat 26 w))
  | 0x28 => .ok (.rcv (BitVec.ofNat 26 w))
  | 0x29 => .ok (.br (Fin.ofNat 8 (bitsAt w 23 3)) (decide (bitsAt w 22 1 = 1)) (BitVec.ofNat 22 w))
  | 0x2A => decodeCtrl f
  | 0x2B => decodeKalu f
  | 0x3E => decodePriv f
  | _ => .error .unassignedMajor

/-- The little-endian number of a list of bytes (R6). -/
def leNat : List Byte → Nat
  | [] => 0
  | b :: bs => b.toNat + 256 * leNat bs

/-- The `n` little-endian bytes of a number (R6). -/
def leBytes (v : Nat) : Nat → List Byte
  | 0 => []
  | n + 1 => BitVec.ofNat 8 v :: leBytes (v / 256) n

/-- Decode the instruction word at the head of a list of bytes, and give the bytes behind it. Total on any bytes. -/
def decode (bs : List Byte) : Except DecodeError (Instr × List Byte) :=
  if bs.length < 4 then .error .truncated
  else match decodeWord (BitVec.ofNat 32 (leNat (bs.take 4))) with
    | .ok i => .ok (i, bs.drop 4)
    | .error e => .error e

/-- The instruction that the decoder reads from an instruction whose bits are `w`: the words are laid out as the hardware
stores them (little-endian, R6) and the bits above `nbits` are zero. -/
def decodeTableWord (nbits w : Nat) : Option Instr :=
  match decode (leBytes (w % 2 ^ nbits) 4) with
  | .ok (i, _) => some i
  | .error _ => none

/-! ## The encoder -/

/-- Word of a two-source instruction with k-selectors. -/
def encBinK (major minor : Nat) (d : Fld) (a b : Src) : Nat :=
  wordA major minor d.code a.code b.code a.pk b.pk (2 * a.ks + b.ks)

/-- Word of a one-source instruction with a k-selector. -/
def encUnK (major minor : Nat) (d : Fld) (a : Src) : Nat :=
  wordA major minor d.code a.code 0 a.pk 0 (2 * a.ks)

/-- Word of a one-source instruction without k-selector. -/
def encUn (major minor : Nat) (d : Fld) (a : Src) : Nat :=
  wordA major minor d.code a.code 0 a.pk 0 0

/-- Word of a two-source instruction without k-selectors. -/
def encBin (major minor : Nat) (d : Fld) (a b : Src) (sub : Nat) : Nat :=
  wordA major minor d.code a.code b.code a.pk b.pk sub

/-- Word of a class-0 format A instruction. -/
def encA (major minor : Nat) (d a b sub : Nat) : Nat :=
  wordA major minor d a b 0 0 sub

/-- Word of a format I instruction. -/
def encI (major d a imm : Nat) : Nat := major * 0x4000000 + d * 0x100000 + a * 0x4000 + imm

/-- Word of a format K instruction. -/
def encK (major d imm : Nat) : Nat := major * 0x4000000 + d * 0x100000 + imm

/-- minor of a store: [3] .rel, [2] .fill, [1:0] width (R206). -/
def storeMinor (rel : Option Scope) (fill : Bool) (wd : Width) : Nat :=
  (if rel.isSome then 8 else 0) + (if fill then 4 else 0) + wd.code

/-- sub of a store (R206). -/
def relSub (rel : Option Scope) : Nat :=
  match rel with
  | some s => s.relCode
  | none => 0

/-- The word of an instruction, from the encoding tables (R200 to R210, R313, R369). The steps that are no instruction words
(the rows of the table without an encoding) have none. -/
def encodeNat : Instr → Option Nat
  | .add d a b => some (encBinK 0x01 0 d a b)
  | .sub d a b => some (encBinK 0x01 1 d a b)
  | .mul d a b => some (encBinK 0x01 2 d a b)
  | .mulhi d a b => some (encBinK 0x01 3 d a b)
  | .min d a b => some (encBinK 0x01 4 d a b)
  | .max d a b => some (encBinK 0x01 5 d a b)
  | .abs d a => some (encUnK 0x01 6 d a)
  | .sad d a b => some (encBinK 0x01 7 d a b)
  | .and d a b => some (encBinK 0x02 0 d a b)
  | .or d a b => some (encBinK 0x02 1 d a b)
  | .xor d a b => some (encBinK 0x02 2 d a b)
  | .andn d a b => some (encBinK 0x02 3 d a b)
  | .orn d a b => some (encBinK 0x02 4 d a b)
  | .xnor d a b => some (encBinK 0x02 5 d a b)
  | .shl d a b => some (encBinK 0x02 6 d a b)
  | .shr d a b => some (encBinK 0x02 7 d a b)
  | .sra d a b => some (encBinK 0x02 8 d a b)
  | .rotl d a b => some (encBinK 0x02 9 d a b)
  | .popc d a => some (encUnK 0x02 10 d a)
  | .clz d a => some (encUnK 0x02 11 d a)
  | .brev d a => some (encUnK 0x02 12 d a)
  | .icmp c d a b => some (encBinK 0x03 c.code d a b)
  | .fcmp c d a b => some (encBinK 0x04 c.code d a b)
  | .sel inv p d a b => some (encBinK 0x05 ((if inv then 8 else 0) + p.val) d a b)
  | .fadd d a b => some (encBinK 0x06 0 d a b)
  | .fsub d a b => some (encBinK 0x06 1 d a b)
  | .fmul d a b => some (encBinK 0x06 2 d a b)
  | .ffma d a b => some (encBinK 0x06 3 d a b)
  | .ffms d a b => some (encBinK 0x06 4 d a b)
  | .fmin d a b => some (encBinK 0x06 5 d a b)
  | .fmax d a b => some (encBinK 0x06 6 d a b)
  | .fabs d a => some (encUnK 0x06 7 d a)
  | .fneg d a => some (encUnK 0x06 8 d a)
  | .fclass d a => some (encUnK 0x06 9 d a)
  | .fsgnj d a b => some (encBinK 0x06 10 d a b)
  | .rcp d a => some (encUnK 0x07 0 d a)
  | .rsqrt d a => some (encUnK 0x07 1 d a)
  | .exp2 d a => some (encUnK 0x07 2 d a)
  | .log2 d a => some (encUnK 0x07 3 d a)
  | .sin d a => some (encUnK 0x07 4 d a)
  | .cos d a => some (encUnK 0x07 5 d a)
  | .cvt t d a => some (encUn 0x08 t.code d a)
  | .qcvtE4m3 d a => some (encUn 0x09 0 d a)
  | .qcvtE5m2 d a => some (encUn 0x09 1 d a)
  | .qcvtE2m1 d a => some (encA 0x09 2 d.code a.code 0 0)
  | .qcvtI8 d a b => some (encBin 0x09 3 d a b 0)
  | .qcvtI4 d a b => some (encBin 0x09 4 d a b 0)
  | .srndE4m3 d a b => some (encA 0x09 5 d.code a.code b.code 0)
  | .srndE5m2 d a b => some (encA 0x09 6 d.code a.code b.code 0)
  | .srndE2m1 d a b => some (encA 0x09 7 d.code a.code b.code 0)
  | .srndBf16 d a b => some (encA 0x09 8 d.code a.code b.code 0)
  | .srndF16 d a b => some (encA 0x09 9 d.code a.code b.code 0)
  | .qrange i4 d a b => some (encBin 0x09 10 d a b (if i4 then 1 else 0))
  | .had32 sc d a => some (encA 0x09 11 d.code a.code 0 sc.code)
  | .xseed e a b => some (encA 0x09 12 0 a.code b.code e.val)
  | .mov d a => some (encUn 0x0A 0 d a)
  | .movxk d a => some (encA 0x0A 1 d.code a.code 0 0)
  | .movkx d a => some (encA 0x0A 2 d.code a.code 0 0)
  | .rdfp d => some (encA 0x0A 3 d.code 0 0 0)
  | .wrfp a => some (encA 0x0A 4 0 a.code 0 0)
  | .rdks d => some (encA 0x0A 5 d.code 0 0 0)
  | .wrks a => some (encA 0x0A 6 0 a.code 0 0)
  | .rdlm d => some (encA 0x0A 7 d.code 0 0 0)
  | .p2x d => some (encA 0x0A 8 d.code 0 0 0)
  | .x2p a => some (encA 0x0A 9 0 a.code 0 0)
  | .rdtid s d => some (encA 0x0A 10 d.code 0 0 s.code)
  | .rdtime d => some (encA 0x0A 11 d.code 0 0 0)
  | .addi d a imm => some (encI 0x0B d.code a.code imm.toNat)
  | .andi d a imm => some (encI 0x0C d.code a.code imm.toNat)
  | .ori d a imm => some (encI 0x0D d.code a.code imm.toNat)
  | .xori d a imm => some (encI 0x0E d.code a.code imm.toNat)
  | .shli d a n => some (encI 0x0F d.code a.code (0x0000 + n.val))
  | .shri d a n => some (encI 0x0F d.code a.code (0x1000 + n.val))
  | .srai d a n => some (encI 0x0F d.code a.code (0x2000 + n.val))
  | .addki d a imm => some (encI 0x10 d.code a.code imm.toNat)
  | .lui d imm => some (encK 0x11 d.code imm.toNat)
  | .luik d imm => some (encK 0x12 d.code imm.toNat)
  | .mode imm => some (encK 0x13 0 imm.toNat)
  | .lds t wd sx d a b => some (encA 0x14 (4 * t.code + wd.code) d.code a.code b.code (if sx then 1 else 0))
  | .sts rel fill wd d a b => some (encA 0x15 (storeMinor rel fill wd) d.code a.code b.code (relSub rel))
  | .ldgal t wd sx d a b => some (encA 0x16 (4 * t.code + wd.code) d.code a.code b.code (if sx then 1 else 0))
  | .stgal rel fill wd d a b => some (encA 0x17 (storeMinor rel fill wd) d.code a.code b.code (relSub rel))
  | .ldg acq wd sx d a b => some (encA 0x18 ((if acq then 12 else 0) + wd.code) d.code a.code b.code (if sx then 1 else 0))
  | .stg rel wd d a b => some (encA 0x19 (storeMinor rel false wd) d.code a.code b.code (relSub rel))
  | .ldp acq wd sx d a b => some (encA 0x1A ((if acq then 12 else 0) + wd.code) d.code a.code b.code (if sx then 1 else 0))
  | .stp rel wd d a b => some (encA 0x1B (storeMinor rel false wd) d.code a.code b.code (relSub rel))
  | .ats op o d a b => some (encA 0x1C op.code d.code a.code b.code o.code)
  | .atgal op o d a b => some (encA 0x1D op.code d.code a.code b.code o.code)
  | .atg op o d a b => some (encA 0x1E op.code d.code a.code b.code o.code)
  | .atp op o d a b => some (encA 0x1F op.code d.code a.code b.code o.code)
  | .redp d a b => some (encA 0x20 0 d.code a.code b.code 0)
  | .fdrain a => some (encA 0x20 1 0 a.code 0 0)
  | .sqstat d a => some (encA 0x20 2 d.code a.code 0 0)
  | .fence s => some (encK 0x21 0 s.code)
  | .qfence m => some (encK 0x21 0 (0x10000 + m.toNat))
  | .ifence => some (encK 0x21 0 0x20000)
  | .barinit g a b => some (encA 0x22 0 0 a.code b.code (if g then 1 else 0))
  | .bararrive g a b => some (encA 0x22 1 0 a.code b.code (if g then 1 else 0))
  | .barwait g d a => some (encA 0x22 2 d.code a.code 0 (if g then 1 else 0))
  | .barinv g a => some (encA 0x22 3 0 a.code 0 (if g then 1 else 0))
  | .waita g a => some (encA 0x22 4 0 a.code 0 (if g then 1 else 0))
  | .copy n d a => some (encA 0x23 n.val d.code a.code 0 0)
  | .patset a slot => some (encA 0x24 0 0 a.code slot.val 0)
  | .sbind wr d slot => some (encA 0x24 1 d.code 0 slot.val (if wr then 1 else 0))
  | .seos d a => some (encA 0x24 2 d.code a.code 0 0)
  | .srel a => some (encA 0x24 3 0 a.code 0 0)
  | .spos d a => some (encA 0x24 4 d.code a.code 0 0)
  | .sskip a b => some (encA 0x24 5 0 a.code b.code 0)
  | .setstair a => some (encA 0x25 0 0 a.code 0 0)
  | .mloadb a b => some (encA 0x25 1 0 a.code b.code 0)
  | .mswap => some (encA 0x25 2 0 0 0 0)
  | .mma t a b => some (encA 0x25 3 t.val a.code b.code 0)
  | .mmaPort t a b => some (encA 0x25 3 t.val a.code b.code 1)
  | .mmas a b => some (encA 0x25 4 0 a.code b.code 0)
  | .mdrain t a b => some (encA 0x25 5 t.val a.code b.code 0)
  | .mzero t => some (encA 0x25 6 t.val 0 0 0)
  | .mstat clr d m => some (encA 0x25 7 d.code 0 m.val (if clr then 1 else 0))
  | .qdset a => some (encA 0x25 8 0 a.code 0 0)
  | .jmp o => some (0x26 * 0x4000000 + o.toNat)
  | .call o => some (0x27 * 0x4000000 + o.toNat)
  | .rcv o => some (0x28 * 0x4000000 + o.toNat)
  | .br p inv o => some (0x29 * 0x4000000 + p.val * 0x800000 + (if inv then 0x400000 else 0) + o.toNat)
  | .jr a => some (encA 0x2A 0 0 a.code 0 0)
  | .callr d a => some (encA 0x2A 1 d.code a.code 0 0)
  | .exit => some (encA 0x2A 2 0 0 0 0)
  | .kill => some (encA 0x2A 3 0 0 0 0)
  | .yield => some (encA 0x2A 4 0 0 0 0)
  | .grow d a => some (encA 0x2A 5 d.code a.code 0 0)
  | .nop => some (encA 0x2A 6 0 0 0 0)
  | .trap c => some (encA 0x2A 7 0 0 c.val 0)
  | .scall c => some (encA 0x2A 8 0 0 c.val 0)
  | .kadd d a b => some (encA 0x2B 0 d.code a.code b.code 0)
  | .ksub d a b => some (encA 0x2B 1 d.code a.code b.code 0)
  | .kmul d a b => some (encA 0x2B 2 d.code a.code b.code 0)
  | .kand d a b => some (encA 0x2B 3 d.code a.code b.code 0)
  | .kor d a b => some (encA 0x2B 4 d.code a.code b.code 0)
  | .kxor d a b => some (encA 0x2B 5 d.code a.code b.code 0)
  | .kshl d a b => some (encA 0x2B 6 d.code a.code b.code 0)
  | .kshr d a b => some (encA 0x2B 7 d.code a.code b.code 0)
  | .ksra d a b => some (encA 0x2B 8 d.code a.code b.code 0)
  | .kmin d a b => some (encA 0x2B 9 d.code a.code b.code 0)
  | .kmax d a b => some (encA 0x2B 10 d.code a.code b.code 0)
  | .prd d a => some (encA 0x3E 0 d.code a.code 0 0)
  | .pwr a b => some (encA 0x3E 1 0 a.code b.code 0)
  | .cxrd d a => some (encA 0x3E 2 d.code a.code 0 0)
  | .cxwr a b => some (encA 0x3E 3 0 a.code b.code 0)
  | .lresume d a n => some (encA 0x3E 4 d.code a.code n.val 0)
  | .ftset a b => some (encA 0x3E 5 0 a.code b.code 0)
  | .ftcommit a b => some (encA 0x3E 6 0 a.code b.code 0)
  | .rgset a b => some (encA 0x3E 7 0 a.code b.code 0)
  | .rgphase a b => some (encA 0x3E 8 0 a.code b.code 0)
  | .spreempt d a => some (encA 0x3E 9 d.code a.code 0 0)
  | .qctl d a n => some (encA 0x3E 10 d.code a.code n.val 0)
  | _ => none

/-- The instruction word of an instruction (none for a step that is no instruction word). -/
def encode (i : Instr) : Option Word := (encodeNat i).map (BitVec.ofNat 32)

end Sys2Proof
end

