-- ==== Sys2Proof/Config.lean ====
section
/-!
DEFINITION. What the specification fixes for the machine, what it names without giving, and the values that it leaves open.
A constant with no body is a value that no proof can see: a claim that holds in this model holds whatever it is.
-/
namespace Sys2Proof.Config

/-- Threads of the package: dies, cores of a die, lanes of a core (R13, R14). -/
def dies : Nat := 2
def coresPerDie : Nat := 80
def lanes : Nat := 64
/-- Ticks of the time-lock margin between packages (R17). -/
def margin : Nat := 64

/-! ### Standards that the specification names and does not give (assumption 7) -/

/-- Ed448 signature under a private key, with a context string (R417). -/
opaque ed448Sign (key : List Byte) (context : String) (msg : List Byte) : List Byte
/-- Ed448 verification under a public key (R418). -/
opaque ed448Verify (pub : List Byte) (context : String) (msg sig : List Byte) : Bool
/-- X448 public key of a private key (R417). -/
opaque x448Public (priv : List Byte) : List Byte
/-- X448 shared secret (R418). -/
opaque x448Shared (priv pub : List Byte) : List Byte
/-- The 8 CRC bytes of a flit, computed over bytes 0 to 241 (R331). -/
opaque flitCrc (bytes : List Byte) : List Byte
/-- The 6 FEC bytes of a flit, computed over bytes 0 to 249 (R331). -/
opaque flitFec (bytes : List Byte) : List Byte
/-- What FEC makes of 256 received bytes, and how many fibres of the port it corrected (R332). -/
opaque fecCorrect (bytes : List Byte) : List Byte × List Nat

/-! ### What each implementation or each part decides -/

/-- The private X448 key of generation `n` of a partition (R413, R417). -/
opaque x448Private (part n : Nat) : List Byte
/-- The device's fused Ed448 private key, its public key, its serial, the root's public key and the root's signature
over the serial and the public key (R417, R418). -/
opaque deviceKey : List Byte
opaque devicePublic : List Byte
opaque deviceSerial : List Byte
opaque rootPublic : List Byte
opaque rootSignature : List Byte
/-- The bytes of the fused bounds, in the order of the table of R419, which the boot ROM measures (R415). -/
opaque fusedBounds : List Byte
/-- Whether firmware's signature verifies under the root key (R415). -/
opaque firmwareValid (image : List Byte) : Bool

/-! ### Values that the specification leaves open; each use takes a fresh number -/

/-- A bit that the specification leaves open. -/
opaque freeBit (n : Nat) : Bool
/-- A number that the specification leaves open. -/
opaque freeNat (n : Nat) : Nat
/-- A word that the specification leaves open. -/
opaque freeWord (n : Nat) : Word

end Sys2Proof.Config
end

