-- ==== Sys2Proof/Machine/State.lean ====
section
/-!
DEFINITION. The state of the Merron (INVENTORY.md, State), as plain data, the reasons for which a step stops, and the state
after device reset. Objects that come and go (lines, sets, grids, accesses, packets) are lists of records.
-/
namespace Sys2Proof.Machine

/-- Why a step stops with a fault of the model. -/
inductive Fault where
  /-- An instruction word was executed while no line is issuing, or the issuing line is not resident. `onLine` raises it.
  Safe: the specification gives an instruction word meaning only on a line. -/
  | noIssuingLine
deriving DecidableEq, Repr

/-- Why a step is refused. -/
inductive Refusal where
  /-- The instruction has no meaning in the model. `exec` raises it. Safe: nothing is claimed of it. -/
  | notModelled (mnemonic : String)
deriving DecidableEq, Repr

/-- A table with a default: strictly rising keys, and no key bound to the default. -/
abbrev Tab (α : Type) := List (Nat × α)
/-- Bytes by address; an unlisted address reads as zero. -/
abbrev Memory := List Host.Cell

/-- V, Z, O, U, I at bits 0 to 4 (R94). -/
abbrev Flags := BitVec 5

/-! ### Lines (R23, R58) -/

/-- What a thread owns (R58). -/
structure Thread where
  x : Vector Word 32
  p : BitVec 8
  fpst : Word
deriving DecidableEq, Repr

/-- An entry of the divergence stack (R49). -/
structure StackEntry where
  pc : Word
  rcv : Word
  mask : DWord
deriving DecidableEq, Repr

/-- A run that takes a granule (R153, R154): the set whose window holds it, the granule, the run's number. -/
structure Run where
  set : SetRef
  gran : Nat
  id : Nat
deriving DecidableEq, Repr

/-- The context of a stream port (R72, R82). -/
structure Port where
  bound : Bool
  write : Bool
  slot : Nat
  desc : Vector Word 10
  pos : Nat
  /-- the granule that a `.take` port holds (R80) -/
  held : Option Run
  /-- the latest completion time that its pushes have returned (R184, R185) -/
  lastG : Nat := 0
deriving DecidableEq, Repr

/-- The fields of a fault record or of an error record (R372). -/
structure Rec where
  cls : Nat
  tri : Nat := 0
  seq : Nat := 0
  pc : Word := 0
  word : Word := 0
  handle : Nat := 0
  addr : Nat := 0
  tmask : DWord := 0
  port : Option Nat := none
  queue : Nat := 7
  qent : Nat := 0
  code : Nat := 0
  elem : Nat := 0
  peer : Nat := 0
  reason : Nat := 0
  tick : Nat := 0
  gtag : Nat := 0
  drops : Nat := 0
  /-- the number of the access that it tells of, which tells records apart; the model's own, in no byte of the record -/
  uid : Nat := 0
deriving DecidableEq, Repr

/-- A line of a page table, by its number, and the number of a read or a write of it, which tells reads before a write from those after it
(R405). -/
abbrev TabRef := Nat × Nat

/-- How far trap entry has come (R370, R371). -/
inductive RecStage where
  | none
  /-- FREN was 0: the record is kept with its line or engine -/
  | held
  /-- written, with this completion time, and the table lines that it changed while their old contents were in use (R405); the pending bit
  follows -/
  | written (g : Nat) (late : List TabRef)
  | done
deriving DecidableEq, Repr

/-- The storage that an address names once translated. -/
inductive Place where
  /-- device memory at a canonical address (R166) -/
  | dev (ca : Nat)
  /-- host memory (R181) -/
  | host (a : Nat)
  /-- the scratchpad window of a set (R156, R401) -/
  | spad (r : SetRef) (off : Nat)
deriving DecidableEq, Repr

/-- A record of an engine, a network unit or the host link whose pending bit is not yet set (R371, R372). -/
structure SysRec where
  part : Nat
  record : Rec
  stage : RecStage
deriving DecidableEq, Repr

/-- What a fault says, beside what the line itself gives to its record. -/
structure FaultInfo where
  cls : Nat
  addr : Nat := 0
  tmask : Option DWord := none
  port : Option Nat := none
  elem : Nat := 0
  code : Nat := 0
  peer : Nat := 0
  reason : Nat := 0
  queue : Nat := 7
  qent : Nat := 0
  /-- the register whose value was not delivered, when the fault is charged to its consumer (R55) -/
  reg : Option (Nat × Nat) := none
  /-- the tick of its detection, when its entry is not taken in that tick (R372) -/
  tick : Option Nat := none
deriving DecidableEq, Repr

/-- What a line waits for. -/
inductive Wait where
  /-- a register of thread j whose load has not returned (R27) -/
  | reg (j n : Nat)
  /-- a k register whose load has not returned -/
  | kreg (n : Nat)
  /-- a granule to be full and not taken by another run (R153, R80, R277) -/
  | granule (r : SetRef) (g : Nat) (run : Nat)
  /-- a granule to be full, taken or not (R277) -/
  | full (r : SetRef) (g : Nat)
  /-- a granule that WAITA named has become full (R277) -/
  | filled
  /-- every granule of a tile (R155, R301, R303) -/
  | tile (r : SetRef) (gs : List Nat)
  /-- room in a bank queue (R150) -/
  | bankRoom (core bank : Nat)
  /-- an earlier access of the line to the same place (R170) -/
  | order (r : SetRef) (g : Nat)
  /-- a walk of a page (R403) -/
  | walk (id : Nat)
  /-- every earlier global or peer write to be confirmed (R196, R321) -/
  | confirm
  /-- the same, to take a fault of the instruction whose word is `word`, decided already (R55, R372) -/
  | fault (f : FaultInfo) (word : Word)
  /-- an acquire of the line to return (R176) -/
  | acquire
  /-- an earlier store of the line to overlapping bytes to be performed (R170) -/
  | ownStore (p : Place) (size : Nat)
  /-- the conditions of a release (R274) -/
  | release (s : Scope)
  /-- room in a copy queue, the matrix queue, the drain queue, the staging buffer, the send buffer -/
  | copyRoom (q : Nat)
  | matRoom
  | drainRoom
  | stageRoom
  | sendRoom
  /-- the matrix operations of the line (R229, R308) -/
  | matrix
  /-- a bank step of a barrier instruction of thread j (R274) -/
  | barStep
  /-- parked at a barrier (R275) -/
  | barrier
  /-- a fence, QFENCE, IFENCE or SCALL's fence (R173, R187, R271, R327) -/
  | fence (s : Scope)
  | qfence (m : Nat)
  | ifence
  | scall (service : Nat)
  /-- trap entry of the line that LRESUME names (R376) -/
  | lresume (handle : Nat)
  /-- the rendezvous latch, the staging of an MMA, the loading of the shadow plane -/
  | latch (i : Instr)
  | mma (i : Instr)
  | mloadb (i : Instr)
  /-- the shadow plane to be free (R292) -/
  | shadow (r : SetRef)
  /-- the write of a block (R249) -/
  | block (i : Instr)
  /-- an instruction cache line (R147) -/
  | fetch
deriving DecidableEq, Repr

/-- State of a line (R41, R378). -/
inductive Status where
  | ready
  | wait (w : Wait)
  | trapped
  /-- every thread has left; the line is freed once its accesses are acknowledged (R322) -/
  | ended
deriving DecidableEq, Repr

/-- A line (R23, R58, R378). -/
structure Line where
  ref : LineRef
  part : Nat
  pl : Bool
  width : Nat
  xregs : Nat
  kregs : Nat
  nports : Nat
  gtag : Nat
  core : Nat
  lane : Nat
  slot : Nat
  /-- when it became resident or yielded (R35, R37): a fresh number, which grows with time; and the cycles waited unchosen (R36) -/
  age : Nat
  waited : Nat
  starved : Bool
  yielded : Bool
  pc : Word
  active : DWord
  crv : Word
  stack : Vector StackEntry 16
  depth : Nat
  rp : Bool
  ra : Word
  lmode : Word
  kstat : Word
  ends : Vector DWord 16
  k : Vector Word 16
  d0 : Word
  d1 : Word
  hd : Nat
  hx : Nat
  mmaCount : Word
  seeds : Vector DWord 4
  carry : Vector DWord 4
  cv : Bool
  block : Vector Word 33
  bv : Bool
  /-- the flags of the block's positions, which resumption ORs again (R249) -/
  blockFl : List Flags
  tri : Nat
  ports : Vector Port 16
  threads : List Thread
  status : Status
  /-- registers of threads (thread, register) and k registers whose load has not returned -/
  pend : List (Nat × Nat)
  kpend : List Nat
  /-- registers whose load, atomic or peer read delivered no value, with the record of the fault (R55) -/
  failed : List (Nat × Nat × Rec)
  /-- error records that have reached the line (R174), with what covers each: 0-3 a copy queue, 4 the drain queue, 5 class 5,
  6 the line's own global and host accesses, 7 its own peer accesses -/
  errs : List (Nat × Rec)
  record : Rec
  recStage : RecStage
  /-- the granule of the open run of a `.take` load (R153) -/
  takeRun : Option Run
  issueNo : Nat
  /-- 128-byte lines that the current load has fetched (R259), with their 32-byte words that carry an error (R411) -/
  fetched : List (Nat × List Byte × List Nat)
  /-- granules that a bank has served to a waiting pop or peek of the line, with their 16 bytes (R154) -/
  grants : List (Run × Nat)
deriving DecidableEq, Repr

/-! ### Sets (R39) and grids (R46) -/

/-- A swamping monitor (R140). -/
structure Monitor where
  count : Nat
  sat : Bool
deriving DecidableEq, Repr

/-- How a B operand was loaded (R298). -/
structure PlaneRec where
  ty : Ty
  sp24 : Bool
  mx : Bool
  grp : Nat
deriving DecidableEq, Repr

/-- A B plane (R298): its record, or empty; the stored rows and the metadata. -/
structure Plane where
  kind : Option PlaneRec
  rows : List Byte
  info : List Byte
deriving DecidableEq, Repr

/-- An accumulator tile: element (i, n) at key 128 i + n, zero when unlisted (R69). -/
abbrev Tile := Tab Word

/-- Where a set stands in its life. -/
inductive Phase where
  /-- placed; its lines become resident at the tick (R392) -/
  | placed (at_ : Nat)
  /-- placed again; its image is loaded at the tick (R380) -/
  | restoring (at_ : Nat)
  | resident
  /-- being pre-empted (R379) -/
  | stopping
  /-- every line has ended; its queue entries may still run -/
  | ended
deriving DecidableEq, Repr

/-- A resident set (R39). Every set has its own four tiles and its own planes (R58, R298), also where several sets are resident on a core, to which
R14 gives four tiles and one array. (DESIGN CHOICE, assumption 74.) -/
structure CSet where
  ref : SetRef
  part : Nat
  core : Nat
  slot : Nat
  /-- window size in bytes (R148) -/
  win : Nat
  /-- hall: index of its first set, number of sets (R44) -/
  hall : Nat
  hsize : Nat
  nlines : Nat
  phase : Phase
  spad : Memory
  full : List Nat
  marks : List Nat
  /-- granules counted as taken, with the number of the run, port or copy that holds each (R154) -/
  taken : List (Nat × Nat)
  badGran : List Nat
  tiles : Vector Tile 4
  mons : Vector Monitor 32
  active : Plane
  shadow : Plane
  qdst : Word
  latch : List Nat
  slots : Vector (Vector Word 10) 32
deriving DecidableEq, Repr

/-- Where a grid stands (R390 to R395). -/
inductive GridState where
  /-- read, not yet dispatchable -/
  | waiting
  | dispatchable
  | abandoned
  /-- its record is written, with this completion time; the signal follows -/
  | recorded (g : Nat)
  /-- refused: its record is to be written with STAT 3 -/
  | refused
deriving DecidableEq, Repr

/-! ### Memory (R145 to R172) -/

/-- A leased line of a core's L1 (R164). -/
structure L1Line where
  core : Nat
  line : Nat
  bytes : List Byte
  expiry : Nat
  /-- its 32-byte words, 0 to 3, that carry an uncorrectable error (R411) -/
  bad : List Nat := []
deriving DecidableEq, Repr

/-- What an L2 slice records of a line that it holds (R165, R172, R405). -/
structure L2Line where
  line : Nat
  lease : Nat
  done : Nat
  /-- latest translation lease (R405) -/
  tlease : Nat
deriving DecidableEq, Repr

/-- A line of an instruction cache, by virtual address (R147). -/
structure ICLine where
  core : Nat
  part : Nat
  va : Nat
  bytes : List Byte
  /-- its 32-byte words, 0 to 3, that carry an uncorrectable error (R411) -/
  bad : List Nat := []
deriving DecidableEq, Repr

/-- What an access does. -/
inductive AccKind where
  | load
  | store
  | atomic (op : AtomOp) (ty : Ty)
deriving DecidableEq, Repr

/-- Who makes an access or an engine write. -/
inductive Issuer where
  | line (r : LineRef) (thread : Nat)
  | copy (core queue : Nat) (r : LineRef)
  | drain (core : Nat) (r : LineRef)
  | net (die : Nat)
  | host
deriving DecidableEq, Repr

/-- Where an access stands. -/
inductive AccPhase where
  /-- a store or atomic whose translation is not complete, waiting for a walk (R196) -/
  | unconfirmed (walk : Nat)
  /-- travelling -/
  | sent
  /-- performed; its acknowledgement or value is on its way, with completion time `g` -/
  | performed (g : Nat)
deriving DecidableEq, Repr

/-- A global or host access of a line that is not yet complete (R171, R175, R194, R196). -/
structure Access where
  id : Nat
  issuer : Issuer
  part : Nat
  grid : Nat
  set : Nat
  core : Nat
  kind : AccKind
  phase : AccPhase
  va : Nat
  place : Place
  size : Nat
  /-- the data of a store, the operand of an atomic; the value read once performed -/
  val : Nat
  /-- the compare value of a CAS -/
  cmp : Nat
  /-- destination register; `none` when the value is discarded -/
  dst : Option Nat
  sx : Bool
  acq : Bool
  /-- release scope; a held release is performed by RELEASE_PERFORM -/
  rel : Option Scope
  /-- staged by the ticket unit (R194) -/
  staged : Bool
  /-- issued while an earlier write was not confirmed (R196) -/
  prov : Bool
  /-- the instruction's issue number in its line, for the gathering of R259 -/
  ino : Nat
  pc : Word
  word : Word
  /-- the line as it stood at the thread, kept for R197 -/
  check : List Line
  /-- the translation it used, for R405: the lines of the entries that the walk read -/
  trans : List TabRef
  failed : Option Rec
  /-- the port, and the position of the element, that the store pushes (R81, R184) -/
  port : Option (Nat × Nat) := none
  /-- a write, once performed: the table line that it changed while its old contents were in use (R405) -/
  late : List TabRef := []
deriving DecidableEq, Repr

/-- What a request asks of a bank. -/
inductive BankOp where
  | load (tag : TagMode) (dst : Option Nat) (sx : Bool) (acq : Bool)
  | store (fill : Bool) (rel : Option Scope)
  | atomic (op : AtomOp) (ty : Ty) (dst : Option Nat) (cmp : Nat) (rel : Option Scope) (acq : Bool)
  /-- a `.take` run ended: the tag clears (R153) -/
  | clear
  /-- a pop, a peek or a copy source that waits in the granule's list, with `.take` or `.keep` (R154); a copy's ticket names its
  operation by `val`, and its issuer's line number is 16 + the queue, which no line has -/
  | ticket (take : Bool)
  /-- the place of a tile's reader (MMA, MLOADB, the x of an MMAS) in a granule's list: those behind it wait until it has read the tile
  (R154, R155); a drain operation's has the line number 20, which no line has -/
  | tile
  | barInit
  | barArrive
  | barWait (p : Fin 8)
  | barInv
deriving DecidableEq, Repr

/-- A request in a bank queue or a granule's wait list (R150, R154). -/
structure BankReq where
  id : Nat
  issuer : LineRef
  thread : Nat
  set : SetRef
  off : Nat
  size : Nat
  op : BankOp
  val : Nat
  /-- number of the `.take` run it belongs to (R153) -/
  run : Nat
  pc : Word
  word : Word
  /-- number of the line's instruction that made a load -/
  ino : Nat := 0
  /-- the access names the gallery space (R156) -/
  gal : Bool := false
  /-- the port whose push it is (R184) -/
  port : Option Nat := none
deriving DecidableEq, Repr

/-- An outgoing access to a peer whose answer has not arrived: what the line expects (R259, R261). -/
structure PeerWait where
  id : Nat
  /-- the queue and sequence number of the packet -/
  die : Nat
  pkg : Nat
  ddie : Nat
  cls : Nat
  seq : Nat
  issuer : LineRef
  kind : AccKind
  /-- (thread, register, byte offset in the packet's data, size) of each load, or of the atomic -/
  dsts : List (Nat × Option Nat × Nat × Nat)
  sx : Bool
  acq : Bool
  rel : Option Scope
  red : Bool
  va : Nat
  pc : Word
  word : Word
  /-- acknowledged, with the completion time -/
  done : Option Nat
  /-- the lowest thread whose access the packet carries (R118) -/
  elem : Nat := 0
deriving DecidableEq, Repr

/-! ### Translation (R399 to R408) -/

/-- A TLB entry: a leaf in a core TLB, any level in a shared TLB (R403). -/
structure TlbEnt where
  /-- `some core` or, for a shared TLB, `none` with its die -/
  core : Option Nat
  die : Nat
  part : Nat
  peer : Bool
  level : Nat
  /-- virtual address bits above the level's index range -/
  vpn : Nat
  entry : Nat
  expiry : Nat
  /-- the lines (canonical, in units of 128 bytes) of the entries that the walk read, and the numbers of the reads -/
  lines : List TabRef
deriving DecidableEq, Repr

/-- A walk under way (R403). -/
structure Walk where
  id : Nat
  die : Nat
  core : Option Nat
  part : Nat
  peer : Bool
  va : Nat
  /-- the access that began it: a write, of a level-0 line, a fetch (R406) -/
  write : Bool
  user : Bool
  fetch : Bool
  /-- its fault found the die's fault table full: no walker holds it, and its accesses wait (R408) -/
  parked : Bool := false
deriving DecidableEq, Repr

/-- A pending entry of a die's fault table (R408). -/
structure FaultEnt where
  die : Nat
  part : Nat
  peer : Bool
  page : Nat
  cls : Nat
  /-- the walk ended at an entry with V = 0 (R79) -/
  absent : Bool
  lines : List Nat
  on : List LineRef
  /-- a protection fault for want of W, U or X in the leaf: it is one of the accesses that need it (R401, R406) -/
  byW : Bool := false
  byU : Bool := false
  byX : Bool := false
deriving DecidableEq, Repr

/-! ### Engines (R161, R184, R292) -/

/-- Progress of a queued operation. -/
inductive OpState where
  | queued
  | started
  /-- all its writes are made; complete when time passes `g` -/
  | written (g : Nat)
  /-- stopped by a fault: its class and address -/
  | stopped (cls addr : Nat)
deriving DecidableEq, Repr

def OpState.isStopped : OpState → Bool
  | .stopped .. => true
  | _ => false

/-- A copy descriptor in a copy queue (R161, R280). -/
structure CopyOp where
  id : Nat
  core : Nat
  queue : Nat
  issuer : LineRef
  part : Nat
  rph : Nat
  det : Bool
  src : Vector Word 10
  dst : Vector Word 10
  mmask : Nat
  ben : Bool
  bgr : Nat
  n : Nat
  state : OpState
  lastG : Nat
  held : Option Run
  /-- the granule that a bank has served to its waiting source element, with its 16 bytes (R154) -/
  grant : Option (Run × Nat) := none
  /-- table lines that it has written while their old contents were in use (R405) -/
  late : List TabRef := []
deriving DecidableEq, Repr

/-- What a drain-queue operation does (R306, R310). -/
inductive DrainKind where
  | mdrain (tile : Nat) (dst scale epi lmode : Word) (values : List DWord) (read : Bool)
  | mmas (waddr : Nat) (desc : Vector Word 4) (ty : Ty) (d0 d1 : Word) (x : List Byte) (read : Bool)
deriving DecidableEq, Repr

/-- An operation of a core's drain queue (R184). -/
structure DrainOp where
  id : Nat
  core : Nat
  issuer : LineRef
  part : Nat
  rph : Nat
  det : Bool
  kind : DrainKind
  n : Nat
  state : OpState
  /-- of an MMAS that has passed rows of its W: where row 0 lies, and the flags of those rows (R310, R403) -/
  base : Option Nat := none
  flags : Flags := 0
deriving DecidableEq, Repr

/-- An operation of the matrix queue that is not an MMA or an MLOADB (R293). -/
inductive MatKind where
  | mswap
  | mzero (t : Nat)
  | mstat (m : Nat) (clr : Bool) (d : Nat)
  /-- the tile read of an MDRAIN, by the id of its drain-queue operation -/
  | mread (op : Nat)
deriving DecidableEq, Repr

structure MatOp where
  id : Nat
  core : Nat
  issuer : LineRef
  kind : MatKind
deriving DecidableEq, Repr

/-- An MMA from its arrival at the array to its completion (R293, R304). -/
structure MmaRun where
  id : Nat
  set : SetRef
  core : Nat
  issuer : LineRef
  members : List Nat
  tile : Nat
  rows : Nat
  depth : Nat
  ty : Ty
  isat : Bool
  d0 : Word
  d1 : Word
  a : List (List Byte)
  scales : List (List Byte)
  plane : Plane
deriving DecidableEq, Repr

/-- An MLOADB that has issued (R301). -/
structure BLoad where
  id : Nat
  set : SetRef
  issuer : LineRef
  plane : Plane
  grans : List Nat
  take : Bool
deriving DecidableEq, Repr

/-! ### Grids (R46, R390) and saved images (R378) -/

/-- The saved image of a set (R378): its bytes' content, as the records that it serialises. -/
structure Image where
  set : CSet
  lines : List Line
  copies : List CopyOp
  drains : List DrainOp
  addr : Nat
  size : Nat
deriving DecidableEq, Repr

/-- A grid of the grid table (R46, R390). -/
structure Grid where
  id : Nat
  part : Nat
  queue : Nat
  sup : Bool
  pkt : Vector Word 32
  state : GridState
  errc : Nat
  count : Nat
  next : Nat
  ended : Nat
  killed : Nat
  tread : Nat
  tfirst : Nat
  dispTick : Nat
  /-- latest completion time of its writes, with the margin for peer times (R199) -/
  lastG : Nat
  depMet : Bool
  /-- the recorded time that the satisfying read of its dependence returned (R391) -/
  depG : Nat
  /-- the tick from which its dependence and its queue's previous grid held it no more (R392, R398) -/
  free : Option Nat := none
  images : List Image
  /-- table lines that its record was written to while their old contents were in use (R405) -/
  late : List TabRef := []
  /-- the line of device memory that its dependence was read from, for the acquire of its sets (R391) -/
  depLine : Option Nat := none
  /-- the halls of a co-resident packet that are still to take their places: the die of each, and its members' cores and lanes (R392) -/
  plan : List (Nat × List (Nat × Nat × List Nat)) := []
deriving DecidableEq, Repr

/-! ### Fabric (R330 to R353) -/

/-- A packet (R333, R334): the header's fields, the byte or element mask, the operands or extension, and the data, for
packets with a mask held at their places in the 128-byte line. -/
structure Packet where
  ty : Nat
  dpkg : Nat
  ddie : Nat
  spkg : Nat
  sdie : Nat
  rly : Bool
  enc : Bool
  cls : Nat
  dlen : Nat
  seq : Nat
  addr : Nat
  aux : Nat
  mask : Nat
  ext : List Byte
  data : List Byte
deriving DecidableEq, Repr

/-- What stands in a send queue (R335). -/
inductive SendItem where
  | packet (p : Packet)
  | marker (r : LineRef)
deriving DecidableEq, Repr

structure SendEnt where
  die : Nat
  pkg : Nat
  ddie : Nat
  /-- 0 compute, 1 collective, 2 relay -/
  cls : Nat
  item : SendItem
  part : Nat
  /-- a release that is held, with its access number -/
  held : Option Scope
  issuer : Option LineRef
  id : Nat
  ino : Nat
  /-- sent and not yet acknowledged; not before this tick when it is resent -/
  sent : Bool
  notBefore : Nat
  /-- the handle of the key that it was last sent under, zero for none (R367) -/
  key : Nat := 0
deriving DecidableEq, Repr

/-- A packet that has arrived and is not yet performed (R336, R346). -/
structure Arrival where
  die : Nat
  port : Option Nat
  pkt : Packet
  part : Nat
  /-- set once it is held: the tick from which the hold of R346 is measured, that of its arrival (R360) -/
  heldAt : Option Nat
  /-- the tick at which it arrived -/
  came : Nat := 0
deriving DecidableEq, Repr

/-- What the link layer keeps for one peer port that a port faces (R332). -/
structure Link where
  fseq : Nat
  rack : Nat
  rrq : Bool
  replaying : Option Nat
  replay : List (Nat × List Byte × Bool)
deriving DecidableEq, Repr

/-- The unsent rest of a packet that is split between flits (R331, R340). -/
structure TxRest where
  part : Nat
  /-- the destination of the stream -/
  dest : Nat × Nat
  /-- it counts as data -/
  data : Bool
  /-- the send queue that it came from: die, package, destination die; none for a relayed or a reverse-direction packet -/
  src : Option (Nat × Nat × Nat)
  /-- the number of its entry -/
  id : Nat
  /-- a packet without an entry, whole -/
  whole : Option Arrival
  bytes : List Byte
deriving DecidableEq, Repr

/-- A flit's place in a stream (R340): its port and FSEQ, the tick in which it came, and, once it has been received, its payload. -/
structure RxFlit where
  port : Nat
  fseq : Nat
  tick : Nat
  bytes : Option (List Byte)
deriving DecidableEq, Repr

/-- A stream of flits as it is received (R340): the bytes that are not yet a whole packet, and the flits that are not yet taken: a flit
that its port is to replay, those behind it, and flits of a tick in which another may still come before them. -/
structure RxStream where
  key : Nat
  rest : List Byte
  later : List RxFlit
deriving DecidableEq, Repr

/-- The packet counter of a key for a source die (R350): the next count, and for a receiver those before it that no packet has
verified under. -/
structure KeyCtr where
  key : List Byte
  die : Nat
  rx : Bool
  next : Nat
  missed : List Nat
deriving DecidableEq, Repr

/-- One optical port (R330, R332, R368, R432). -/
structure FPort where
  /-- packet mode in force, packet mode asked for (PMODE), whether a switch is pending -/
  packet : Bool
  asked : Bool
  switching : Bool
  locked : Bool
  nulls : Nat
  fseq : Nat
  rack : Nat
  rrq : Bool
  /-- the FSEQ of the next flit to replay, while the port replays -/
  replaying : Option Nat
  /-- payload areas not acknowledged, by FSEQ -/
  replay : List (Nat × List Byte × Bool)
  /-- the FACE of the slot before, and the start of the slot last begun (R432) -/
  face : Option (Nat × Nat)
  slotAt : Nat
  /-- what the link layer keeps for the peer ports that it does not face now -/
  links : List (Option (Nat × Nat) × Link)
  /-- flits sent in the current window of 1,024 ticks, with the window's start (R419) -/
  injected : Nat
  window : Nat
  lastTick : Nat
  /-- the flit last sent -/
  sent : List Byte
deriving DecidableEq, Repr

/-- A slot of a figure table (R338): length, guard, dark mask, the sixteen port words of R381. -/
structure Slot where
  len : Nat
  guard : Nat
  dark : Nat
  ports : List Word
deriving DecidableEq, Repr

/-- A figure table in force or committed (R338, R339, R382). -/
structure Figure where
  slots : List Slot
  epoch : Nat
  hold : Nat
deriving DecidableEq, Repr

/-- The packet of a contribution: its source queue, SEQ and address, and the latest completion time of its elements so far. -/
structure RedFrom where
  q : Nat
  seq : Nat
  addr : Nat
  g : Nat
deriving DecidableEq, Repr

/-- A summing element of a reduction (R348). -/
structure RedElem where
  die : Nat
  part : Nat
  addr : Nat
  nrank : Nat
  ty : Nat
  d0 : Word
  d1 : Word
  got : List (Nat × Word)
  /-- the contributions' packets; a packet is acknowledged once its elements are all summed -/
  from_ : List RedFrom
deriving DecidableEq, Repr

/-- An answer to a write of a table line that waits for the write's completion time (R405): an acknowledgement or an atomic's result. -/
structure LateAck where
  arr : Arrival
  pkt : Packet
  g : Nat
  refs : List TabRef
deriving DecidableEq, Repr

structure Fabric where
  sendQ : List SendEnt
  waits : List PeerWait
  /-- next SEQ to send, by queue number (R336) -/
  seqs : Tab Nat
  /-- reverse-direction packets not yet sent (R336); one with a port leaves by that port -/
  back : List Arrival
  ports : Vector FPort 16
  rx : List RxStream
  tx : List TxRest
  /-- source die and destination, 2 × (2 × package + die) + source die, of every send queue that a packet has entered (R288) -/
  traffic : List Nat
  arrived : List Arrival
  /-- next SEQ to perform, by source queue (R336) -/
  rxSeq : Tab Nat
  /-- latest completion time of the writes that its packets have made, by source queue (R185) -/
  wrote : Tab Nat
  /-- credit of R342 by 3 × destination + class -/
  credits : Tab Nat
  /-- by destination: 2 × the class visited, plus 1 when the visit has begun -/
  visit : Tab Nat
  /-- in packet mode, by class: the destination last served, plus 1 -/
  turn : Tab Nat
  /-- flits sent to a destination in a slot: destination, start of the slot, flits (R340) -/
  used : List (Nat × Nat × Nat)
  relay : List Arrival
  reds : List RedElem
  counters : List KeyCtr
  late : List LateAck
deriving DecidableEq, Repr

/-! ### Partitions, queues, package (R366, R386, R412) -/

/-- A key handle (R418): valid handle, peer package, key to the peer, key from the peer. -/
structure KeyEnt where
  handle : Nat
  pkg : Nat
  out : List Byte
  in_ : List Byte
deriving DecidableEq, Repr

/-- A key binding for a peer die (R367): the handle bound, those in force for sending on figure-mode and on packet-mode ports, and the
handles bound before, each with the tick until which packets under it are accepted, once one is set. -/
structure Binding where
  peer : Nat
  handle : Nat
  sendHandle : Nat
  pktHandle : Nat
  olds : List (Nat × Option Nat)
deriving DecidableEq, Repr

/-- What a command of the attestation engine leaves when it ends (R416, R418). -/
structure AttRes where
  mrs : Vector (List Byte) 4
  buf : List Host.Cell
  keyGen : Nat
  keys : List KeyEnt
  hnd : Nat
  res : Nat
deriving DecidableEq, Repr

/-- The registers of a partition (R366, R383, R387, R402, R412, R416). -/
structure Partition where
  pen : Bool
  pcerr : Bool
  cores : Vector Word 5
  pport : Nat
  ranges : Vector Word 4
  frlo : Word
  frhi : Word
  /-- handles whose held records were written when FREN rose and whose pending bits are still to be set, in order (R371) -/
  backlog : List Nat
  fplo : Word
  fphi : Word
  fdset : Word
  fdoff : Word
  fcount : Word
  lease : Nat
  holdt : Nat
  sbuf : Nat
  rbuf : Nat
  clsw : Nat
  kpeer : Nat
  cmda : Vector Word 4
  cmdop : Nat
  cmdBusy : Bool
  cmdres : Word
  route : Tab Word
  rlypkg : Tab Word
  /-- SEQ of the last record of each handle, and the pending bits of engine handles (R372) -/
  seqs : Tab Nat
  /-- region words by index of R383, and the current phases -/
  regions : Tab Word
  figure : Option Figure
  pendFig : Tab Word
  commit : Option Figure
  held : Bool
  dark : Bool
  /-- sending that a lost lock stopped resumes at this tick (R425) -/
  resumeAt : Nat
  grlo : Word
  grhi : Word
  prlo : Word
  prhi : Word
  tfcnt : Word
  age : Nat
  cres : Vector Word 5
  cxbase : Nat
  cxsize : Nat
  /-- attestation (R415, R416) -/
  mrs : Vector (List Byte) 4
  keyGen : Nat
  keys : List KeyEnt
  binds : List Binding
  op : Word
  busy : Bool
  /-- what the command that runs leaves when it ends (R416) -/
  cmdEnd : Option AttRes := none
  res : Nat
  hnd : Nat
  aarg : Word
  buf : Memory
deriving DecidableEq, Repr

/-- The registers of a hardware queue (R386). -/
structure QueueRegs where
  qblo : Word
  qbhi : Word
  ctl : Word
  head : Word
  tail : Word
  /-- posted writes delivered before the tail write complete at this tick (R180) -/
  tailG : Nat
  /-- and the table lines that they changed (R405) -/
  tailT : List TabRef
  /-- the grid that last became dispatchable, and its set count when the packet after it was read (R390, R398) -/
  prev : Option Nat
  prevCount : Nat
  /-- a signal packet that was read, the tick of its reading, whether its dependence holds, and the completion time of the
  signal store before which no further packet is read (R396) -/
  sigPkt : Option (Vector Word 32)
  sigRead : Nat
  sigDep : Bool
  sigG : Nat
  sigT : List TabRef
  /-- the canonical address of the dependence word that the queue watches at its home slice (R391) -/
  watch : Option Nat
  /-- the tick before which a word of host memory is not read again (R391) -/
  pollAt : Nat
deriving DecidableEq, Repr

/-- A record slot of the flash (R430). -/
structure FlashSlot where
  seq : Nat
  orderly : Bool
  /-- the digest that stands beside the counters and the sequence number; none in a slot whose write has not ended -/
  digest : List Byte
  counters : Tab Nat
deriving DecidableEq, Repr

/-- The registers of the package (R415, R419 to R430). -/
structure Package where
  power : Bool
  stage : Nat
  fail : Nat
  ready : Bool
  tblock : Bool
  free : Bool
  pers : Bool
  shutting : Bool
  tbofs : Int
  clks : Nat
  domid : Nat
  didv : Bool
  everReady : Bool
  goodSyncs : Nat
  /-- the count has been set to the grandmaster's time (R424) -/
  counted : Bool
  mrs : Vector (List Byte) 4
  fwwin : Vector (Word × Word) 4
  firmware : List Byte
  /-- rate divisor: 0 full, 1 half, 2 quarter, 3 an eighth (R427) -/
  rate : Nat
  limited : Bool
  calm : Nat
  lastCheck : Int
  /-- the clock that R427 lets the cores have, and the one that firmware asked for, in 50 MHz units (R419) -/
  cap : Nat
  fwClks : Nat
  counters : Tab Nat
  latched : Word
  slotA : FlashSlot
  slotB : FlashSlot
  writing : Option FlashSlot
  lastWrite : Int
  /-- the last 16 bytes of a device's answer to firmware: bytes read from the host -/
  fwData : List Byte
  /-- NumVFs of the SR-IOV capability (R364). (PRESUMED, assumption 82.) -/
  numVfs : Nat
  fwVolt : Nat
  fwLaser : Nat
  /-- what firmware asked for within the bounds of R419: package power in mW, throttle temperature in °C, flits per port in 1,024 ticks -/
  fwPower : Nat
  fwTemp : Nat
  fwInject : Nat
deriving DecidableEq, Repr

/-- What happens next. -/
inductive Act where
  /-- the issue slot of a lane (core, lane) issues -/
  | issue (core lane : Nat)
  | event (i : Instr)
deriving DecidableEq, Repr

/-- An entry of the model's schedule: ticks that pass, and what then happens (assumption 1). -/
structure Sched where
  ticks : Nat
  act : Act
  /-- how many threads an issue takes before other lanes come between (R33, R34); 0: all of them -/
  threads : Nat := 0
  /-- it happens in the same cycle as the entry before (R150, R179) -/
  same : Bool := false
deriving DecidableEq, Repr

/-- What a lane's issue slot remembers (R34). -/
structure LaneMem where
  core : Nat
  lane : Nat
  /-- issue cycles that have passed on the lane, by the costs of R26 -/
  cycle : Nat
  /-- residency slot and line of the last issue -/
  last : Nat
  lastRef : Option LineRef
  /-- that line stands inside its instruction, between two threads, and keeps the slot (R34) -/
  mid : Bool := false
deriving DecidableEq, Repr

/-- The machine. -/
structure State where
  time : Nat
  schedule : List Sched
  cur : Option LineRef
  /-- how many threads the current issue takes; 0: all of them (the model's own) -/
  quantum : Nat
  /-- the last requester of the cycle, as R179 numbers them; empty when none has had a request in it (the model's own, assumption 83) -/
  inCycle : List Nat
  freeCtr : Nat
  nextId : Nat
  lanes : List LaneMem
  lines : List Line
  sets : List CSet
  grids : List Grid
  dev : Memory
  hostMem : Memory
  badDev : List Nat
  l1 : List L1Line
  l2 : List L2Line
  horizon : Vector Nat 64
  icache : List ICLine
  flight : List Access
  bankQ : List BankReq
  waitQ : List BankReq
  tlb : List TlbEnt
  walks : List Walk
  faultTab : List FaultEnt
  copyQ : List CopyOp
  drainQ : List DrainOp
  matQ : List MatOp
  runs : List MmaRun
  loads : List BLoad
  fab : Fabric
  parts : Vector Partition 8
  queues : Tab QueueRegs
  /-- completion times of posted host writes not yet passed, latest (R180) -/
  postedG : Nat
  /-- table lines that posted writes have changed while their old contents were in use (R405) -/
  postedT : List TabRef
  /-- the completion of a CXL.mem write leaves no earlier than this tick (R180) -/
  cxlG : Nat
  /-- completion times of CXL.mem writes that are not yet answered, with the table lines that they changed, and how many have been (R180, R405) -/
  cxlWait : List (Nat × List TabRef)
  cxlDone : Nat
  /-- writes to watched 128-byte lines that no queue has read yet: line, its bytes after the write, recorded time (R391) -/
  hits : List (Nat × List Byte × Nat)
  /-- records of engines, network units and the host link on their way (R371, R372) -/
  sysRecs : List SysRec
  /-- what the host last read (R180) -/
  hostRead : List Byte
  /-- ticks of the last placement of each die (R392) -/
  lastPlace : Vector Nat 2
  pkg : Package
deriving DecidableEq, Repr

/-! ### Values at reset -/

def Rec.zero : Rec := { cls := 0 }

def FPort.reset : FPort :=
  { packet := false, asked := false, switching := false, locked := false, nulls := 0, fseq := 0, rack := 0xFFF, rrq := false,
    replaying := none, replay := [], face := none, slotAt := 0, links := [], injected := 0, window := 0, lastTick := 0, sent := [] }

/-- Sixty-four zero bytes, a measurement register at reset (R415). -/
def mrZero : List Byte := List.replicate 64 0

/-- The registers of a partition at their Reset values (R366, R387, R402, R412, R416); partition 0 owns the package. -/
def Partition.reset (first : Bool) : Partition :=
  { pen := first, pcerr := false, cores := if first then Vector.replicate 5 0xFFFFFFFF else Vector.replicate 5 0,
    pport := if first then 0xFFFF else 0,
    ranges := if first then #v[0x81800000, 0, 0, 0] else Vector.replicate 4 0,
    frlo := 0, frhi := 0, backlog := [], fplo := 0, fphi := 0, fdset := 0, fdoff := 0, fcount := 0, lease := 1024, holdt := 16384,
    sbuf := 4, rbuf := 16, clsw := 0x111, kpeer := 0, cmda := Vector.replicate 4 0, cmdop := 0, cmdBusy := false,
    cmdres := 0, route := [], rlypkg := [], seqs := [], regions := [], figure := none, pendFig := [], commit := none,
    held := false, dark := false, resumeAt := 0, grlo := 0, grhi := 0, prlo := 0, prhi := 0, tfcnt := 0, age := 0x186A0,
    cres := Vector.replicate 5 0, cxbase := 0, cxsize := 0, mrs := Vector.replicate 4 mrZero, keyGen := 0, keys := [],
    binds := [], op := 0, busy := false, res := 0, hnd := 0, aarg := 0, buf := [] }

/-- A queue's registers at reset: QSZ 4, PMAX 7 (R386). -/
def QueueRegs.reset : QueueRegs :=
  { qblo := 0, qbhi := 0, ctl := 0x384, head := 0, tail := 0, tailG := 0, tailT := [], prev := none, prevCount := 0, sigPkt := none,
    sigRead := 0, sigDep := false, sigG := 0, sigT := [], watch := none, pollAt := 0 }

def FlashSlot.empty : FlashSlot := { seq := 0, orderly := false, digest := [], counters := [] }

def Package.reset : Package :=
  { power := false, stage := 0, fail := 0, ready := false, tblock := false, free := false, pers := false, shutting := false,
    tbofs := 0, clks := 32, domid := 0, didv := false, everReady := false, goodSyncs := 0, counted := false,
    mrs := Vector.replicate 4 mrZero, fwwin := Vector.replicate 4 (0, 0), firmware := [], rate := 0, limited := false,
    calm := 0, lastCheck := 0, counters := [], latched := 0, slotA := FlashSlot.empty, slotB := FlashSlot.empty,
    writing := none, lastWrite := 0, fwData := [], numVfs := 0, fwVolt := 0, fwLaser := 0, cap := 32, fwClks := 32, fwPower := 2400000,
    fwTemp := 105, fwInject := 1024 }

def Fabric.reset : Fabric :=
  { sendQ := [], waits := [], seqs := [], back := [], ports := Vector.replicate 16 FPort.reset, rx := [], tx := [],
    arrived := [], traffic := [], rxSeq := [], wrote := [], credits := [], visit := [], turn := [], used := [], relay := [], reds := [], counters := [], late := [] }

/-- The machine right after reset: power is off, no object is resident, memory lists nothing. (DEDUCED and DESIGN CHOICE, assumptions 4, 5, 57, 58.) -/
def State.reset : State :=
  { time := 0, schedule := [], cur := none, quantum := 0, inCycle := [], freeCtr := 0, nextId := 1, lanes := [], lines := [], sets := [], grids := [],
    dev := [], hostMem := [], badDev := [], l1 := [], l2 := [], horizon := Vector.replicate 64 0, icache := [], flight := [],
    bankQ := [], waitQ := [], tlb := [], walks := [], faultTab := [], copyQ := [], drainQ := [], matQ := [], runs := [],
    loads := [], fab := Fabric.reset,
    parts := #v[Partition.reset true, Partition.reset false, Partition.reset false, Partition.reset false,
      Partition.reset false, Partition.reset false, Partition.reset false, Partition.reset false],
    queues := [], postedG := 0, postedT := [], cxlG := 0, cxlWait := [], cxlDone := 0, hits := [], sysRecs := [], hostRead := [], lastPlace := Vector.replicate 2 0, pkg := Package.reset }

/-! ### Values at launch (R58, R148, R389) -/

def Thread.launch : Thread := { x := Vector.replicate 32 0, p := 1, fpst := 0 }
def StackEntry.zero : StackEntry := { pc := 0, rcv := 0, mask := 0 }
def Port.unbound : Port :=
  { bound := false, write := false, slot := 0, desc := Vector.replicate 10 0, pos := 0, held := none }
def Plane.empty : Plane := { kind := none, rows := [], info := [] }
def Monitor.zero : Monitor := { count := 0, sat := false }

/-- All threads of a width (R49). -/
def allThreads (width : Nat) : DWord := BitVec.ofNat 64 (2 ^ width - 1)

/-- A line at launch, apart from its place and its KINIT words (R58, R389). (DEDUCED, assumption 60.) -/
def Line.launch (ref : LineRef) (width xregs kregs : Nat) : Line :=
  { ref, part := 0, pl := false, width, xregs, kregs, nports := 0, gtag := 0, core := 0, lane := 0, slot := 0, age := 0,
    waited := 0, starved := false, yielded := false, pc := 0, active := allThreads width, crv := 0xFFFFFFFF,
    stack := Vector.replicate 16 StackEntry.zero, depth := 0, rp := false, ra := 0, lmode := 0, kstat := 0,
    ends := Vector.replicate 16 0, k := Vector.replicate 16 0, d0 := 0, d1 := 0x20, hd := 0, hx := 0, mmaCount := 0,
    seeds := Vector.replicate 4 0, carry := Vector.replicate 4 0, cv := false, block := Vector.replicate 33 0, bv := false, blockFl := [],
    tri := 0, ports := Vector.replicate 16 Port.unbound, threads := List.replicate width Thread.launch, status := .ready,
    pend := [], kpend := [], failed := [], errs := [], record := Rec.zero, recStage := .none, takeRun := none, issueNo := 0, fetched := [],
    grants := [] }

/-- A set at launch, apart from its place (R58, R148). -/
def CSet.launch (ref : SetRef) (core win nlines : Nat) : CSet :=
  { ref, part := 0, core, slot := 0, win, hall := ref.set, hsize := 1, nlines, phase := .resident, spad := [],
    full := [], marks := [], taken := [], badGran := [], tiles := Vector.replicate 4 [], mons := Vector.replicate 32 Monitor.zero,
    active := Plane.empty, shadow := Plane.empty, qdst := 0, latch := [],
    slots := Vector.replicate 32 (Vector.replicate 10 0) }

end Sys2Proof.Machine
end

