-- ==== Sys2Proof/Machine/Ops.lean ====
section
/-!
DEFINITION. Named operations over tables, memory, registers and the objects of the state; the address helpers of
06_memory_hierarchy.md; leases and completion times; translation; trap entry and the return from it.
-/
namespace Sys2Proof.Machine

/-- The outcomes of a step of this machine. -/
abbrev Out := Host.Outcome State Fault Refusal

/-! ### Tables and bytes -/

/-- The value of a table at a key, `d` when unlisted. -/
def tget {α : Type} (d : α) : Tab α → Nat → α
  | [], _ => d
  | (k, v) :: r, n => if k = n then v else tget d r n

/-- A table with one key set, in canonical form. -/
def tset {α : Type} [DecidableEq α] (d : α) : Tab α → Nat → α → Tab α
  | [], n, v => if v = d then [] else [(n, v)]
  | (k, u) :: r, n, v =>
    if n < k then (if v = d then (k, u) :: r else (n, v) :: (k, u) :: r)
    else if n = k then (if v = d then r else (n, v) :: r)
    else (k, u) :: tset d r n v

/-- The canonical form: keys above `lo` strictly rising, no entry equal to the default. -/
def tabWf {α : Type} [DecidableEq α] (d : α) : Nat → Tab α → Bool
  | _, [] => true
  | lo, (k, v) :: r => decide (lo ≤ k) && decide (v ≠ d) && tabWf d (k + 1) r

/-- The canonical form of memory. -/
def Memory.wf (m : Memory) : Bool := tabWf (0 : Byte) 0 m

/-- One byte of memory; an unlisted address reads as zero (R148, R420; host memory: assumption 6). -/
def readByte (m : Memory) (a : Nat) : Byte := tget 0 m a
/-- Memory with one byte written. -/
def writeByte (m : Memory) (a : Nat) (b : Byte) : Memory := tset 0 m a b
/-- `n` bytes from `a`, in ascending address. -/
def readBytes (m : Memory) (a : Nat) : Nat → List Byte
  | 0 => []
  | n + 1 => readByte m a :: readBytes m (a + 1) n
/-- Memory with a list of bytes written from `a`. -/
def writeBytes (m : Memory) (a : Nat) : List Byte → Memory
  | [] => m
  | b :: bs => writeBytes (writeByte m a b) (a + 1) bs
/-- A little-endian number of `n` bytes at `a` (R6). -/
def readLe (m : Memory) (a n : Nat) : Nat := leNat (readBytes m a n)

/-- Little-endian bytes of a number. -/
def bytesOf (v n : Nat) : List Byte := leBytes v n

/-- Bits `[lo + len - 1 : lo]` of a word. -/
def fld (w : Word) (lo len : Nat) : Nat := bitsAt w.toNat lo len
/-- One bit of a word. -/
def bit (w : Word) (i : Nat) : Bool := w.getLsbD i

/-- The element of a list with the least key, the first of several. -/
def leastBy {α : Type} (key : α → Nat) : List α → Option α
  | [] => none
  | a :: r => match leastBy key r with | none => some a | some b => if key b < key a then some b else some a

/-- An element of a list, with a default. -/
def nth {α : Type} (d : α) (l : List α) (n : Nat) : α := l.getD n d
/-- Bytes padded with zeros to `n`. -/
def padTo (n : Nat) (bs : List Byte) : List Byte := (bs ++ List.replicate n 0).take n

/-- Removes the first element that satisfies a test, and gives it. -/
def takeFirst {α : Type} (p : α → Bool) : List α → Option (α × List α)
  | [] => none
  | a :: r => if p a then some (a, r) else
    match takeFirst p r with
    | some (b, r') => some (b, a :: r')
    | none => none

/-- Replaces the elements that satisfy a test. -/
def upd {α : Type} (p : α → Bool) (f : α → α) (l : List α) : List α := l.map fun a => if p a then f a else a

/-! ### Objects -/

/-- The resident line with a reference. -/
def State.line (s : State) (r : LineRef) : Option Line := s.lines.find? fun l => decide (l.ref = r)
/-- Writes a line back in its place. -/
def State.setLine (s : State) (l : Line) : State :=
  { s with lines := s.lines.map fun m => if m.ref = l.ref then l else m }
/-- Updates one line. -/
def State.updLine (s : State) (r : LineRef) (f : Line → Line) : State :=
  { s with lines := s.lines.map fun m => if m.ref = r then f m else m }

/-- Updates one line and what is kept of it for R197: a change that an earlier access or an engine makes. -/
def State.updLineAll (s : State) (r : LineRef) (f : Line → Line) : State :=
  { s with
    lines := s.lines.map fun m => if m.ref = r then f m else m
    flight := s.flight.map fun a => { a with check := a.check.map fun m => if m.ref = r then f m else m } }

/-- The set of a line. -/
def setOf (r : LineRef) : SetRef := { grid := r.grid, set := r.set }

def State.cset (s : State) (r : SetRef) : Option CSet := s.sets.find? fun c => decide (c.ref = r)
def State.updSet (s : State) (r : SetRef) (f : CSet → CSet) : State :=
  { s with sets := s.sets.map fun c => if c.ref = r then f c else c }
def State.grid (s : State) (g : Nat) : Option Grid := s.grids.find? fun x => decide (x.id = g)
def State.updGrid (s : State) (g : Nat) (f : Grid → Grid) : State :=
  { s with grids := s.grids.map fun x => if x.id = g then f x else x }

/-- The lines of a set. -/
def State.linesOf (s : State) (r : SetRef) : List Line := s.lines.filter fun l => decide (setOf l.ref = r)

/-- A partition's registers. -/
def State.part (s : State) (p : Nat) : Partition := s.parts.getD p (Partition.reset false)
def State.updPart (s : State) (p : Nat) (f : Partition → Partition) : State :=
  { s with parts := s.parts.setIfInBounds p (f (s.part p)) }

def State.queue (s : State) (q : Nat) : QueueRegs := tget QueueRegs.reset s.queues q
def State.setQueue (s : State) (q : Nat) (r : QueueRegs) : State :=
  { s with queues := tset QueueRegs.reset s.queues q r }

def State.updFab (s : State) (f : Fabric → Fabric) : State := { s with fab := f s.fab }
def State.updPkg (s : State) (f : Package → Package) : State := { s with pkg := f s.pkg }

/-- A fresh number. -/
def State.fresh (s : State) : Nat × State := (s.nextId, { s with nextId := s.nextId + 1 })
/-- A fresh free value's number. (DESIGN CHOICE, assumption 3.) -/
def State.freshFree (s : State) : Nat × State := (s.freeCtr, { s with freeCtr := s.freeCtr + 1 })

/-- What a lane's slot remembers, and its issue cycles. -/
def State.laneMem (s : State) (core lane : Nat) : Option LaneMem :=
  s.lanes.find? fun m => decide (m.core = core) && decide (m.lane = lane)
/-- A line is suspended, or trapped, or saved: the slot does not go on inside its instruction any more (R34). -/
def State.offSlot (s : State) (r : LineRef) : State :=
  { s with lanes := upd (fun m => decide (m.lastRef = some r)) (fun m => { m with mid := false }) s.lanes }
def State.laneCycle (s : State) (core lane : Nat) : Nat :=
  match s.laneMem core lane with | some m => m.cycle | none => 0

/-! ### Registers (R58, R59) -/

/-- A thread of a line. -/
def Line.thread (l : Line) (j : Nat) : Thread := nth Thread.launch l.threads j
def Line.updThread (l : Line) (j : Nat) (f : Thread → Thread) : Line :=
  { l with threads := l.threads.set j (f (l.thread j)) }

/-- x(n) of thread j; x0 reads zero. -/
def Line.x (l : Line) (j n : Nat) : Word := if n = 0 then 0 else (l.thread j).x.getD n 0
/-- Writes x(n) of thread j; a write to x0 is discarded. -/
def Line.setX (l : Line) (j n : Nat) (v : Word) : Line :=
  if n = 0 then l else l.updThread j fun t => { t with x := t.x.setIfInBounds n v }
/-- The 64-bit pair named by even n; x0 as a source reads a zero double (R59). -/
def Line.xd (l : Line) (j n : Nat) : DWord := if n = 0 then 0 else l.x j (n + 1) ++ l.x j n
/-- Writes a pair; x0 as a destination discards both words (R59). -/
def Line.setXd (l : Line) (j n : Nat) (v : DWord) : Line :=
  if n = 0 then l else (l.setX j n (v.setWidth 32)).setX j (n + 1) ((v >>> 32).setWidth 32)

/-- k(n); k0 reads zero. -/
def Line.kr (l : Line) (n : Nat) : Word := if n = 0 then 0 else l.k.getD n 0
/-- Writes k(n); a write to k0 is discarded. -/
def Line.setK (l : Line) (n : Nat) (v : Word) : Line := if n = 0 then l else { l with k := l.k.setIfInBounds n v }
/-- The 64-bit pair {k(n + 1), k(n)}; k0 as a 64-bit source reads zero (R226). -/
def Line.kd (l : Line) (n : Nat) : DWord := if n = 0 then 0 else l.kr (n + 1) ++ l.kr n

/-- p(n) of thread j; p0 reads true. -/
def Line.p (l : Line) (j n : Nat) : Bool := if n = 0 then true else (l.thread j).p.getLsbD n
/-- A byte with one bit set or cleared. -/
def setBit8 (b : BitVec 8) (n : Nat) (v : Bool) : BitVec 8 :=
  if v then b ||| (1#8 <<< n) else b &&& ~~~(1#8 <<< n)
/-- Writes p(n) of thread j; a write to p0 is discarded. -/
def Line.setP (l : Line) (j n : Nat) (v : Bool) : Line :=
  if n = 0 then l else l.updThread j fun t => { t with p := setBit8 t.p n v }

def Line.fpst (l : Line) (j : Nat) : Word := (l.thread j).fpst
def Line.setFpst (l : Line) (j : Nat) (v : Word) : Line := l.updThread j fun t => { t with fpst := v }

/-- The kstat word as it reads: EOS is the OR of the end masks (R67). -/
def Line.kstatWord (l : Line) : Word :=
  if l.ends.any (fun e => decide (e ≠ 0)) then l.kstat ||| 0x400 else l.kstat &&& ~~~0x400#32

def Line.port (l : Line) (n : Nat) : Port := l.ports.getD n Port.unbound
def Line.updPort (l : Line) (n : Nat) (f : Port → Port) : Line :=
  { l with ports := l.ports.setIfInBounds n (f (l.port n)) }
def Line.end_ (l : Line) (n : Nat) : DWord := l.ends.getD n 0
def Line.setEnd (l : Line) (n : Nat) (v : DWord) : Line := { l with ends := l.ends.setIfInBounds n v }
/-- A 64-bit mask with bit i set. -/
def maskBit (i : Nat) : DWord := BitVec.ofNat 64 (2 ^ i)

/-! ### lmode (R62 to R64) -/

def Line.gp (l : Line) : Nat := fld l.lmode 0 3
def Line.gi (l : Line) : Bool := bit l.lmode 3
/-- The element type; every code that lmode can hold is assigned (R62). -/
def Line.ty (l : Line) : Ty := (Ty.ofCode (fld l.lmode 4 5)).getD .s32
def Line.rm (l : Line) : Nat := fld l.lmode 9 3
def Line.ftz (l : Line) : Bool := bit l.lmode 12
def Line.isat (l : Line) : Bool := bit l.lmode 13
def Line.nonsat (l : Line) : Bool := bit l.lmode 14
def Line.sp24 (l : Line) : Bool := bit l.lmode 15
def Line.policy (l : Line) : Nat := fld l.lmode 20 2

/-- The guard of thread j (R25, R62). -/
def Line.guard (l : Line) (j : Nat) : Bool := l.p j l.gp != l.gi
/-- Whether thread j is in the active mask. -/
def Line.isActive (l : Line) (j : Nat) : Bool := l.active.getLsbD j
/-- The issue mask from thread `tri`, in ascending order (R25, R54). -/
def Line.issueThreads (l : Line) : List Nat :=
  (List.range l.width).filter fun j => decide (l.tri ≤ j) && l.isActive j && l.guard j
/-- The whole issue mask. -/
def Line.issueMask (l : Line) : List Nat := (List.range l.width).filter fun j => l.isActive j && l.guard j
/-- The active mask is all ones across the width (R40). -/
def Line.fullMask (l : Line) : Bool := decide (l.active = allThreads l.width)

/-! ### Device memory (R165, R166) -/

/-- Whether a physical address lies in a window of device memory. -/
def isDev (pa : Nat) : Bool :=
  decide (pa < 0x6000000000) || (decide (0x8000000000 ≤ pa) && decide (pa < 0xE000000000))

/-- `storage_of` of R166: stack and stack offset. -/
def storageOf (pa : Nat) : Nat × Nat :=
  if pa < 0x6000000000 then
    let die := if 0x3000000000 ≤ pa then 1 else 0
    let o := pa - die * 0x3000000000
    (die * 4 + bitsAt o 8 2, bitsAt o 10 28 * 256 + bitsAt o 0 8)
  else
    let w := pa - 0x8000000000
    (w / 0xC00000000, w % 0xC00000000)

/-- `canon` of R166. -/
def canon (pa : Nat) : Nat :=
  let st := storageOf pa
  st.1 / 4 * 0x3000000000 + (bitsAt st.2 8 28 * 1024 + st.1 % 4 * 256 + st.2 % 256)

def homeDie (pa : Nat) : Nat := (storageOf pa).1 / 4
def channelOf (pa : Nat) : Nat := bitsAt (storageOf pa).2 8 5

/-- `slice_of` of R165. -/
def sliceOf (ca : Nat) : Nat :=
  bitsAt ca 7 5 ^^^ bitsAt ca 12 5 ^^^ bitsAt ca 17 5 ^^^ bitsAt ca 22 5 ^^^ bitsAt ca 27 5 ^^^ bitsAt ca 32 5 ^^^ bitsAt ca 37 2

/-- The slice of a canonical address, over both dies. -/
def sliceIdx (ca : Nat) : Nat := ca / 0x3000000000 * 32 + sliceOf ca
/-- The 128-byte line of a canonical address. -/
def lineOf (ca : Nat) : Nat := ca / 128

def coreDie (core : Nat) : Nat := core / 80

/-! ### Slices: leases and completion times (R164, R165, R172, R405) -/

def State.l2Find (s : State) (ln : Nat) : Option L2Line := s.l2.find? fun e => decide (e.line = ln)
/-- The slice's lease horizon for a line. -/
def State.horizonOf (s : State) (ln : Nat) : Nat := s.horizon.getD (sliceIdx (ln * 128)) 0
/-- What the slice records of a line; for a line that it does not hold, its horizon stands for each time. -/
def State.l2Rec (s : State) (ln : Nat) : L2Line :=
  (s.l2Find ln).getD { line := ln, lease := s.horizonOf ln, done := s.horizonOf ln, tlease := 0 }
def State.setL2 (s : State) (e : L2Line) : State :=
  { s with l2 := e :: s.l2.filter fun x => decide (x.line ≠ e.line) }

/-- A slice holds 2 MiB, 16,384 lines (R13, R165): the lines of line ln's slice beyond that, least recently used first out. -/
def State.overfull (s : State) (ln : Nat) : List L2Line :=
  (s.l2.filter fun x => decide (sliceIdx (x.line * 128) = sliceIdx (ln * 128))).drop 16384

/-- Lines that a slice evicts raise its lease horizon to their latest expiry (R165). (DEDUCED, assumption 24.) -/
def State.evictL2 (s : State) (out : List L2Line) : State :=
  out.foldl (fun t e =>
    let i := sliceIdx (e.line * 128)
    { t with
      l2 := t.l2.filter fun x => decide (x.line ≠ e.line)
      horizon := t.horizon.setIfInBounds i (max (t.horizon.getD i 0) (max e.lease e.tlease)) }) s

/-- A slice that has taken line ln in keeps to its size. -/
def State.fitL2 (s : State) (ln : Nat) : State := s.evictL2 (s.overfull ln)

/-- The global write completion time of a write that arrives now (R165). -/
def State.gwct (s : State) (ca : Nat) : Nat := max s.time (max (s.l2Rec (lineOf ca)).lease (s.l2Rec (lineOf ca)).tlease)

/-- An L1 line of a core that is usable now (R164). -/
def State.l1Hit (s : State) (core ln : Nat) : Option L1Line :=
  s.l1.find? fun e => decide (e.core = core) && decide (e.line = ln) && decide (s.time < e.expiry)

/-- A 128-byte line as the slice holds it. -/
def State.devLine (s : State) (ln : Nat) : List Byte := readBytes s.dev (ln * 128) 128

/-- Whether a read of `n` bytes meets a 32-byte word with an uncorrectable error (R411). (DEDUCED, assumption 25.) -/
def State.badRead (s : State) (ca n : Nat) : Bool :=
  s.badDev.any fun w => decide (w * 32 < ca + n) && decide (ca < w * 32 + 32)

/-- The 32-byte words of a 128-byte line, 0 to 3, that carry an uncorrectable error (R411). -/
def State.badWords (s : State) (ln : Nat) : List Nat := (List.range 4).filter fun k => s.badDev.contains (4 * ln + k)

/-- Whether `n` bytes at an offset of a copy of a line meet one of its bad words. -/
def meetsBad (bad : List Nat) (off n : Nat) : Bool := bad.any fun k => decide (32 * k < off + n) && decide (off < 32 * k + 32)

/-- A cache of at most `n` elements that satisfy a test, the newest first (R147, R164, R403). -/
def keepFirst {α : Type} (p : α → Bool) : Nat → List α → List α
  | _, [] => []
  | n, a :: r => if p a then (match n with | 0 => keepFirst p 0 r | m + 1 => a :: keepFirst p m r) else a :: keepFirst p n r

/-- A line fetched into a core's L1 of 256 KiB, 2,048 lines, with a lease (R164). The copy that makes room is the oldest: an L1 may
evict a line at any time. -/
def State.fetchL1 (s : State) (core part ln : Nat) : State :=
  let e := s.l2Rec ln
  let exp := s.time + (s.part part).lease
  { (s.setL2 { e with lease := max e.lease exp }).fitL2 ln with
    l1 := keepFirst (fun x => decide (x.core = core)) 2048
      ({ core, line := ln, bytes := s.devLine ln, expiry := exp, bad := s.badWords ln } ::
        s.l1.filter fun x => decide (x.core ≠ core) || decide (x.line ≠ ln)) }

/-- A core's copy of a line, when it has one, takes the line's newest data (R169, R178). -/
def State.refreshL1 (s : State) (core ln : Nat) : State :=
  { s with l1 := upd (fun x => decide (x.core = core) && decide (x.line = ln)) (fun x => { x with bytes := s.devLine ln, bad := s.badWords ln }) s.l1 }

/-- Bytes written into a copy of a line. -/
def patch (bytes : List Byte) (off : Nat) (vs : List Byte) : List Byte :=
  (bytes.zipIdx).map fun p => if off ≤ p.2 ∧ p.2 < off + vs.length then nth 0 vs (p.2 - off) else p.1

/-- Whether a queue watches a 128-byte line (R391). -/
def State.watched (s : State) (ln : Nat) : Bool := s.queues.any fun q => decide (q.2.watch.map lineOf = some ln)

/-- A write performed at its slice: the bytes, the recorded completion time, the issuing core's L1 copy, the words that a
new code covers, what the watches of queues see (R391), and the fault-table entries whose walk read the line (R164, R172, R408, R411). -/
def State.devWrite (s : State) (core : Option Nat) (ca : Nat) (bs : List Byte) : State :=
  let ln := lineOf ca
  let e := s.l2Rec ln
  let g := s.gwct ca
  { (s.setL2 { e with done := max e.done g }).fitL2 ln with
    dev := writeBytes s.dev ca bs
    l1 := s.l1.map fun x => if some x.core = core ∧ x.line = ln then
      { x with bytes := patch x.bytes (ca % 128) bs, bad := x.bad.filter fun k => ¬ (ca % 128 ≤ 32 * k ∧ 32 * k + 32 ≤ ca % 128 + bs.length) } else x
    badDev := s.badDev.filter fun w => ¬ (ca ≤ w * 32 ∧ w * 32 + 32 ≤ ca + bs.length)
    hits := if s.watched ln then s.hits ++ [(ln, readBytes (writeBytes s.dev ca bs) (ln * 128) 128, max e.done g)] else s.hits
    faultTab := s.faultTab.filter fun f => !f.lines.contains ln }

/-! ### Scratchpad windows (R148 to R159) -/

def CSet.bankOf (off : Nat) : Nat := bitsAt off 4 5
def CSet.isMark (c : CSet) (g : Nat) : Bool := c.marks.contains g
def CSet.isFull (c : CSet) (g : Nat) : Bool := c.full.contains g
/-- The run, port or copy that holds a granule (R154). -/
def CSet.holder (c : CSet) (g : Nat) : Option Nat := (c.taken.find? fun t => decide (t.1 = g)).map (·.2)
/-- Full, and not taken by anyone else than the run `id`. -/
def CSet.available (c : CSet) (g id : Nat) : Bool :=
  match c.holder g with
  | some h => decide (h = id)
  | none => c.isFull g
def CSet.setFull (c : CSet) (g : Nat) : CSet := { c with full := if c.full.contains g then c.full else g :: c.full }
def CSet.setEmpty (c : CSet) (g : Nat) : CSet :=
  { c with full := c.full.filter (fun x => decide (x ≠ g)), taken := c.taken.filter fun t => decide (t.1 ≠ g) }
def CSet.take (c : CSet) (g id : Nat) : CSet :=
  { c with taken := (g, id) :: c.taken.filter fun t => decide (t.1 ≠ g) }
/-- Bytes written into the window; an uncorrectable granule that the write covers whole is correct again (R411). -/
def CSet.write (c : CSet) (off : Nat) (bs : List Byte) : CSet :=
  { c with spad := writeBytes c.spad off bs
           badGran := c.badGran.filter fun g => ¬ (off ≤ g * 16 ∧ g * 16 + 16 ≤ off + bs.length) }
def CSet.read (c : CSet) (off n : Nat) : Nat := readLe c.spad off n

/-- A granule becomes full: its waiters go to the head of the bank's queue in the order in which they began waiting (R154), and the
lines that WAITA parked on it are done (R277). -/
def State.fill (s : State) (r : SetRef) (g : Nat) : State :=
  let mine := fun q : BankReq => decide (q.set = r) && decide (q.off / 16 = g)
  { (s.updSet r fun c => c.setFull g) with
    bankQ := s.waitQ.filter mine ++ s.bankQ
    waitQ := s.waitQ.filter fun q => !mine q
    lines := upd (fun l => decide (l.status = .wait (.full r g))) (fun l => { l with status := .wait .filled }) s.lines }

/-- The granules that `n` bytes from `off` touch. -/
def gransOf (off n : Nat) : List Nat := (List.range ((off % 16 + n + 15) / 16)).map fun i => off / 16 + i

/-- An engine write of bytes: granules become full (R152). -/
def State.engineSpad (s : State) (r : SetRef) (off : Nat) (bs : List Byte) : State :=
  (gransOf off bs.length).foldl (fun t g => t.fill r g) (s.updSet r fun c => c.write off bs)

/-- The set that holds member m of the hall of a set (R44, R156). -/
def State.member (s : State) (c : CSet) (m : Nat) : Option CSet :=
  if m < c.hsize then s.cset { grid := c.ref.grid, set := c.hall + m } else none

/-! ### Ownership, regions, translation (R192, R383, R399 to R414) -/

/-- Whether a partition owns a canonical address (R412). -/
def Partition.owns (p : Partition) (ca : Nat) : Bool :=
  p.ranges.any fun w => bit w 31 && decide (fld w 0 9 * 0x40000000 ≤ ca) &&
    decide (ca < (fld w 0 9 + fld w 16 9) * 0x40000000)

/-- The region check of R192 for a writer of class `ocls`, tag and phase (`none`: the region's current phase); true when
the write is refused. -/
def Partition.regionRefuses (p : Partition) (ca ocls gtag : Nat) (phase : Option Nat) : Bool :=
  p.regions.any fun kv =>
    decide (kv.1 % 8 = 2) && bit kv.2 0 &&
    (let i := kv.1 / 8
     let base := fld (tget 0 p.regions (i * 8)) 0 24 * 0x10000
     let size := fld (tget 0 p.regions (i * 8 + 1)) 0 24 * 0x10000
     let own := tget 0 p.regions (i * 8 + 4 + phase.getD (fld kv.2 1 2))
     decide (base ≤ ca) && decide (ca < base + size) &&
       !(decide (fld own 0 3 = ocls) && (decide (3 < ocls) || decide (fld own 16 16 = gtag))))

/-- Shift of the page size that a leaf of a level maps (R399). -/
def levelShift (level : Nat) : Nat := if level = 0 then 16 else 12 + 9 * level

/-- Result of a translation and its checks. -/
inductive Xl where
  | hit (p : Place) (lines : List TabRef)
  | miss
  | fault (cls : Nat)
deriving DecidableEq, Repr

/-- The TLB entry that covers an address now (R403, R404). (DESIGN CHOICE, assumption 23.) -/
def State.tlbFind (s : State) (core : Option Nat) (die part : Nat) (peer : Bool) (va : Nat) : Option TlbEnt :=
  s.tlb.find? fun e => decide (e.core = core) && decide (e.die = die) && decide (e.part = part) && (e.peer == peer) &&
    bit (BitVec.ofNat 32 e.entry) 1 && decide (e.vpn = va / 2 ^ levelShift e.level) && decide (s.time < e.expiry)

/-- The target of a leaf, with the checks of R401 and R406: `write`, `user` (a level-0 line), `fetch`. -/
def State.leafTarget (s : State) (e : TlbEnt) (va : Nat) (write user fetch : Bool) : Xl :=
  let w := e.entry
  let pa := bitsAt w 8 49 * 256 + va % 2 ^ levelShift e.level
  let kind := bitsAt w 6 2
  if (write && decide (bitsAt w 2 1 = 0)) || (user && decide (bitsAt w 4 1 = 0)) || (fetch && decide (bitsAt w 3 1 = 0)) then
    .fault 0x08
  else if kind = 0 then
    if isDev pa && (s.part e.part).owns (canon pa) then .hit (.dev (canon pa)) e.lines else .fault 0x08
  else if kind = 1 then .hit (.host pa) e.lines
  else if kind = 2 ∧ e.peer ∧ e.level = 0 ∧ bitsAt w 52 5 = 0 then
    match (s.grids.filter fun g => decide (g.part = e.part) && decide (g.state ≠ .refused) && decide (fld (g.pkt.getD 1 0) 16 16 = bitsAt w 36 16)).head? with
    | none => .fault 0x06
    | some g =>
      .hit (.spad { grid := g.id, set := bitsAt w 12 24 } (bitsAt w 8 4 * 0x10000 + va % 0x10000)) e.lines
  else .fault 0x08

/-- Whether an entry of the fault table stands for the fault of an access: an entry made for want of W, U or X stands for the accesses that
need it, since each access is checked for itself (R406, R408). (DEDUCED, assumption 81.) -/
def FaultEnt.covers (f : FaultEnt) (write user fetch : Bool) : Bool :=
  !(f.byW || f.byU || f.byX) || (f.byW && write) || (f.byU && user) || (f.byX && fetch)

/-- Translation of an address through a core's TLB and the shared TLB behind it (or, for `core = none`, a die's shared TLB). -/
def State.translate (s : State) (core : Option Nat) (die part : Nat) (peer : Bool) (va : Nat) (write user : Bool)
    (fetch : Bool := false) : Xl :=
  match (s.tlbFind core die part peer va).or (s.tlbFind none die part peer va) with
  | none =>
    match s.faultTab.find? (fun f => decide (f.die = die) && decide (f.part = part) && (f.peer == peer) &&
        decide (f.page = va / 0x10000) && f.covers write user fetch) with
    | some f => .fault f.cls
    | none => .miss
  | some e => s.leafTarget e va write user fetch

/-- A walk of a page that is under way for any requester of the die, or a new one that joins the walkers (R403). -/
def State.startWalk (s : State) (core : Option Nat) (die part : Nat) (peer : Bool) (va : Nat)
    (write user : Bool) (fetch : Bool := false) : Nat × State :=
  match s.walks.find? (fun w => decide (w.die = die) && decide (w.part = part) &&
      (w.peer == peer) && decide (w.va / 0x10000 = va / 0x10000)) with
  | some w => (w.id, s)
  | none =>
    let (id, s) := s.fresh
    (id, { s with walks := s.walks ++ [{ id, die, core, part, peer, va, write, user, fetch }] })

/-- The pending fault-table entries of a page on which no line is trapped go once their fault was taken by an engine, a network unit, the
scheduler or an OOBZ read (R408): no line that faulted on them remains trapped. -/
def State.dropFault (s : State) (die part : Nat) (peer : Bool) (va : Nat) : State :=
  { s with faultTab := s.faultTab.filter fun f => !(decide (f.die = die) && decide (f.part = part) && (f.peer == peer) &&
      decide (f.page = va / 0x10000) && f.on.isEmpty) }

/-- Whether something may still be performed under contents that a table line had before the write numbered `st`: an access in flight that
was translated under them, or an entry that holds them and has not expired (R404, R405). -/
def State.oldUse (s : State) (x : TabRef) : Bool :=
  let old (ts : List TabRef) : Bool := ts.any fun t => decide (t.1 = x.1) && decide (t.2 < x.2)
  s.flight.any (fun b => (match b.phase with | .performed _ => false | _ => true) && old b.trans) ||
  s.tlb.any fun e => decide (s.time < e.expiry) && old e.lines

/-- The table line that a write which is made now changes, when its old contents are still in use (R405). -/
def State.tabRefs (s : State) (ca : Nat) : List TabRef :=
  let x : TabRef := (lineOf ca, s.nextId)
  if s.oldUse x then [x] else []

/-- Whether writes to table lines may complete: nothing is performed under the old contents any more (R405). -/
def State.tabDone (s : State) (xs : List TabRef) : Bool := !xs.any s.oldUse


/-! ### Lifetime counters (R429), numbered in the order of the table -/

def Counter.seconds : Nat := 0
/-- Junction-temperature bin 0 to 16 of a die. -/
def Counter.temp (die bin : Nat) : Nat := 1 + 17 * die + bin
/-- Clock residency at a CLKS value 16 to 32. -/
def Counter.clock (clks : Nat) : Nat := 35 + (clks - 16)
/-- HBM words that ECC corrected, of a stack and a channel, and words of the L2s and scratchpads of a die. -/
def Counter.hbmFix (stack channel : Nat) : Nat := 52 + 32 * stack + channel
def Counter.dieFix (die : Nat) : Nat := 316 + die
/-- Whether a counter counts corrections. -/
def Counter.isFix (i : Nat) : Bool :=
  ((List.range 8).any fun s => (List.range 32).any fun c => decide (i = Counter.hbmFix s c)) || decide (i = Counter.dieFix 0) || decide (i = Counter.dieFix 1)
/-- Uncorrectable words found in a stack. -/
def Counter.uncorrectable (stack : Nat) : Nat := 308 + stack
/-- FEC-corrected flits of a receive fibre of a port. -/
def Counter.fec (port fibre : Nat) : Nat := 318 + 4 * port + fibre
def Counter.crc (port : Nat) : Nat := 382 + port
def Counter.relock (port : Nat) : Nat := 398 + 2 * port
def Counter.relockFail (port : Nat) : Nat := 399 + 2 * port
/-- Discarded 1-bits of a TYPE code. -/
def Counter.ones (ty : Nat) : Nat := 430 + ty
/-- Clamps at a bound of R419, in the order of its table. -/
def Counter.clamp (bound : Nat) : Nat := 448 + bound
def Counter.orderly : Nat := 456
def Counter.unclean : Nat := 457
/-- How many counters there are. -/
def Counter.total : Nat := 458
/-- The width of a counter in bits. -/
def Counter.bits (i : Nat) : Nat := if i = 0 ∨ (318 ≤ i ∧ i < 382) ∨ (430 ≤ i ∧ i < 448) then 64 else 32

/-- Counts `k` more; a counter saturates (R429). -/
def Package.countBy (p : Package) (i k : Nat) : Package :=
  { p with counters := tset 0 p.counters i (min (tget 0 p.counters i + k) (2 ^ Counter.bits i - 1)) }
def Package.count (p : Package) (i : Nat) : Package := p.countBy i 1

/-- The uncorrectable words among `n` bytes that an access with no consumer reads are counted (R411, R429). (DEDUCED, assumption 25.) -/
def State.noteBad (s : State) (ca n : Nat) : State :=
  (s.badDev.filter fun w => decide (w * 32 < ca + n) && decide (ca < w * 32 + 32)).foldl
    (fun s w => s.updPkg fun p => p.count (Counter.uncorrectable (storageOf (w * 32)).1)) s

/-! ### Walks (R399 to R404) -/

/-- What one level of a walk comes to. -/
inductive WalkRes where
  | leaf (e : TlbEnt) (read : List TlbEnt)
  | fault (absent : Bool) (lines : List TabRef)
deriving DecidableEq, Repr

/-- Bit width of the index of a level (R399). -/
def indexBits (level : Nat) : Nat := if level = 0 then 5 else 9

/-- Whether a present entry is malformed at a level (R400). KIND of a non-leaf entry is ignored once the entry is no malformed one.
(DEDUCED, assumption 110.) -/
def State.malformed (s : State) (part level e : Nat) : Bool :=
  let leaf := e.testBit 1
  let kind := bitsAt e 6 2
  let addr := bitsAt e 8 49 * 256
  e.testBit 5 || decide (bitsAt e 57 7 ≠ 0) || decide (kind = 3) ||
    (leaf && decide (2 < level)) || (!leaf && decide (level = 0)) ||
    (if leaf then decide (kind < 2) && decide (addr % 2 ^ levelShift level ≠ 0)
     else decide (addr % (if level = 1 then 256 else 4096) ≠ 0) || decide (kind ≠ 0) ||
       !(isDev addr && (s.part part).owns (canon addr)))

/-- The walk from a level down: held entries first, then reads at the home slices, each with a lease (R403, R404). `exp` is the
earliest expiry so far, `lines` the lines read. A word with an uncorrectable error is counted, and the walk ends at it (R411; DESIGN CHOICE,
assumption 25). -/
def walkFrom (s : State) (w : Walk) (part : Nat) : Nat → Nat → Nat → List TabRef → List TlbEnt → State × WalkRes
  | level, table, exp, lines, acc =>
    let cont (s : State) (entry exp : Nat) (lines : List TabRef) (acc : List TlbEnt) (fresh : Bool) : State × WalkRes :=
      let ent : TlbEnt :=
        { core := none, die := w.die, part, peer := w.peer, level, vpn := w.va / 2 ^ levelShift level, entry, expiry := exp, lines }
      if !entry.testBit 0 then (s, .fault true lines)
      else if s.malformed part level entry then (s, .fault false lines)
      else
        let acc := if fresh then ent :: acc else acc
        if entry.testBit 1 then (s, .leaf ent acc)
        else
          match level with
          | 0 => (s, .fault false lines)
          | n + 1 => walkFrom s w part n (bitsAt entry 8 49 * 256) exp lines acc
    match s.tlb.find? fun e => decide (e.core = none) && decide (e.die = w.die) && decide (e.part = part) && (e.peer == w.peer) &&
        decide (e.level = level) && decide (e.vpn = w.va / 2 ^ levelShift level) && decide (s.time < e.expiry) with
    | some e => cont s e.entry (min exp e.expiry) (e.lines ++ lines) acc false
    | none =>
      let pa := table + 8 * bitsAt w.va (levelShift level) (indexBits level)
      let ca := canon pa
      let ln := lineOf ca
      let until_ := s.time + (s.part part).lease
      let r := s.l2Rec ln
      let ref : TabRef := (ln, s.nextId)
      let s := { (s.setL2 { r with tlease := max r.tlease until_ }).fitL2 ln with nextId := s.nextId + 1 }
      if s.badRead ca 8 then (s.noteBad ca 8, .fault false (ref :: lines))
      else cont s (readLe s.dev ca 8) (min exp until_) (ref :: lines) acc true
termination_by structural level => level

/-- The root of a walk (R399, R402), when it is valid and lies in memory that the partition owns. -/
def State.walkRoot (s : State) (w : Walk) : Option Nat :=
  let p := s.part w.part
  let lo := if w.peer then p.prlo else p.grlo
  let hi := if w.peer then p.prhi else p.grhi
  let pa := fld hi 0 25 * 2 ^ 32 + fld lo 12 20 * 4096
  if bit lo 0 && isDev pa && p.owns (canon pa) then some pa else none

/-! ### Handles and records (R365, R370 to R372) -/

def Line.handle (l : Line) : Nat := l.core / 80 * 0x20000 + l.core % 80 * 0x400 + l.lane * 8 + l.slot
def CSet.handle (c : CSet) : Nat := c.core / 80 * 0x20000 + c.core % 80 * 0x400 + c.slot
/-- The handle of copy queue n, or of the drain queue for n = 4. -/
def queueHandle (core n : Nat) : Nat := core / 80 * 0x20000 + core % 80 * 0x400 + (64 + n) * 8
/-- The handle of a die's network unit. -/
def netHandle (die : Nat) : Nat := die * 0x20000 + 127 * 0x400

/-- The 64 bytes of a record (R372). -/
def Rec.bytes (r : Rec) : List Byte :=
  bytesOf (r.cls + r.tri * 0x100 + r.seq * 0x10000) 4 ++ bytesOf r.pc.toNat 4 ++ bytesOf r.word.toNat 4 ++
  bytesOf r.handle 4 ++ bytesOf r.addr 8 ++ bytesOf r.tmask.toNat 8 ++
  bytesOf ((match r.port with | some p => p + 16 | none => 0) + r.queue * 32 + r.qent * 0x100 + r.code * 0x10000) 4 ++
  bytesOf r.elem 8 ++ bytesOf (r.peer + r.reason * 0x10000) 4 ++ bytesOf r.tick 8 ++ bytesOf r.gtag 4 ++ bytesOf r.drops 4

def Partition.fren (p : Partition) : Bool := bit p.frlo 0
/-- FRBASE and FPBASE as physical addresses (R366). -/
def Partition.frbase (p : Partition) : Nat := fld p.frhi 0 25 * 0x100000000 + fld p.frlo 16 16 * 0x10000
def Partition.fpbase (p : Partition) : Nat := fld p.fphi 0 25 * 0x100000000 + fld p.fplo 16 16 * 0x10000

/-- Whether a partition may store at a physical address: device memory that it owns (R414). -/
def State.mayStore (s : State) (part pa : Nat) : Bool := isDev pa && (s.part part).owns (canon pa)

/-- A device-scope store of a partition at a physical address (R370); an address outside its memory takes no byte (assumption 22). -/
def State.physStore (s : State) (part pa : Nat) (bs : List Byte) : State :=
  if s.mayStore part pa then s.devWrite none (canon pa) bs else s
/-- The completion time that such a store has, and the table lines that it changes (R405). -/
def State.physG (s : State) (part pa : Nat) : Nat := if s.mayStore part pa then s.gwct (canon pa) else s.time
def State.physRefs (s : State) (part pa : Nat) : List TabRef := if s.mayStore part pa then s.tabRefs (canon pa) else []

/-- Step 2 of trap entry: the record with the next SEQ of its handle, written at FRBASE when FREN is 1; held otherwise, and while
records that were held before have their steps to come (R370, R371). -/
def State.putRecord (s : State) (part : Nat) (r : Rec) : State × Rec × RecStage :=
  let p := s.part part
  if p.fren && p.backlog.isEmpty then
    let seq := (tget 0 p.seqs r.handle + 1) % 65536
    let r := { r with seq := seq }
    let pa := p.frbase + 64 * r.handle
    let g := s.physG part pa
    ((s.updPart part fun p => { p with seqs := tset 0 p.seqs r.handle seq }).physStore part pa r.bytes, r, .written g (s.physRefs part pa))
  else (s, r, .held)

/-- A translation or protection fault of a partition counts in TFCNT (R402, R408). -/
def State.countFault (s : State) (part cls : Nat) : State :=
  if cls = 0x07 ∨ cls = 0x08 then s.updPart part fun p => { p with tfcnt := p.tfcnt + 1 } else s

/-- The record of a new fault, which TFCNT counts when it is one of translation or protection, a fetch's too (R402, R408). -/
def State.writeRecord (s : State) (part : Nat) (r : Rec) : State × Rec × RecStage :=
  (s.countFault part (if r.reason ≠ 0 then 0 else if r.cls = 0x1F then 0x07 else r.cls)).putRecord part r

/-- The record of a fault of a line at thread tri (R372). -/
def FaultInfo.record (f : FaultInfo) (l : Line) (tri : Nat) (pc word : Word) (tick : Nat) : Rec :=
  { cls := f.cls, tri, pc, word, handle := l.handle, addr := f.addr, tmask := f.tmask.getD (maskBit tri), port := f.port,
    queue := f.queue, qent := f.qent, code := f.code, elem := f.elem, peer := f.peer, reason := f.reason, tick := f.tick.getD tick,
    gtag := l.gtag }

/-- A `.take` run of the line ends at its stop: its granule's tag clears through the bank (R153). (DEDUCED, assumption 16.) -/
def State.endRun (s : State) (l : Line) : State :=
  match l.takeRun with
  | none => s
  | some run =>
    let (id, s) := s.fresh
    { s with bankQ := s.bankQ ++ [{ set := run.set, id, issuer := l.ref, thread := 0, off := run.gran * 16, size := 16,
                                    op := .clear, val := 0, run := run.id, pc := l.pc, word := 0,
                                    gal := decide (run.set ≠ setOf l.ref) }] }

/-- TAKING AN EXCEPTION (R370, R371). The line stops at `pc` and `tri`, its open run ends, its record is written (or held)
and it is TRAPPED; PENDING_BIT_SET follows the record's completion time. The record tells of the instruction at `rpc`. -/
def State.trapEntry (s : State) (l : Line) (f : FaultInfo) (pc : Word) (tri : Nat) (rpc word : Word) (rtri : Nat) : State :=
  let s := s.endRun l
  let w := s.writeRecord l.part (f.record l rtri rpc word s.time)
  let s := { w.1 with faultTab := upd (fun e => decide (e.die = coreDie l.core) && decide (e.part = l.part) && !e.peer &&
      decide (e.page = f.addr / 0x10000) && (decide (e.cls = f.cls) || decide (f.cls = 0x1F))) (fun e => { e with on := l.ref :: e.on.filter fun r => decide (r ≠ l.ref) }) w.1.faultTab }
  s.setLine {
    l with
    pc := pc, tri := tri, status := .trapped, record := w.2.1, recStage := w.2.2, takeRun := none,
                       failed := match f.reg with
                         | some r => l.failed.filter fun x => !(l.failed.any fun y => decide ((y.1, y.2.1) = r) && decide (x.1 = y.1) && decide (x.2.2 = y.2.2))
                         | none => l.failed }

/-- An engine's fault: its record is written at the engine's handle, or held, and its pending bit follows (R371, R373). -/
def State.engineRecord (s : State) (part : Nat) (r : Rec) : State × Rec :=
  let w := s.writeRecord part r
  ({ w.1 with sysRecs := w.1.sysRecs ++ [{ part, record := w.2.1, stage := w.2.2 }] }, w.2.1)

/-- An error record queued for a line (R174, R373): class 0x13 with the class of the error in CODE when it is delivered. -/
def State.queueErr (s : State) (r : LineRef) (cover : Nat) (e : Rec) : State :=
  s.updLineAll r fun l => { l with errs := l.errs ++ [(cover, e)] }

/-- THE RETURN FROM AN EXCEPTION, disposition 0 (R376): the pending bit clears and the line goes on at its pc and tri. -/
def State.clearPending (s : State) (part handle : Nat) : State :=
  let pa := (s.part part).fpbase + handle / 8
  let old := readByte s.dev (canon pa)
  s.physStore part pa [old &&& ~~~(1#8 <<< (handle % 8))]

/-- A line resumed at its pc and tri. -/
def Line.resume (l : Line) : Line := { l with status := .ready, recStage := .none, record := Rec.zero }

end Sys2Proof.Machine
end

