-- ==== Sys2Proof/Machine/Crypto.lean ====
section
/-!
DEFINITION. AES-256 in Galois counter mode, by which packets between partitions with a key are sealed (13_fabric.md, R350), and SHAKE256, by
which measurements and lifetime records are digested (R415, R418, R430).
PRESUMED, assumption 7: the specification names the two and gives neither; what stands here is FIPS 197, NIST SP 800-38D and FIPS 202.
-/
namespace Sys2Proof.Machine

/-! ### AES-256 -/

/-- Doubling in the field of AES. -/
def gfDouble (a : Byte) : Byte := (a <<< 1) ^^^ (if a.msb then 0x1B else 0)

/-- Multiplication in the field of AES. -/
def gfMul (a b : Byte) : Byte :=
  ((List.range 8).foldl (fun (p : Byte × Byte) i => (if b.getLsbD i then p.1 ^^^ p.2 else p.1, gfDouble p.2)) (0, a)).1

/-- The inverse in the field of AES, the 254th power; that of 0 is 0. -/
def gfInv (a : Byte) : Byte :=
  ((List.range 7).foldl (fun (p : Byte × Byte) _ => let q := gfMul p.2 p.2; (gfMul p.1 q, q)) (1, a)).1

def rotByte (a : Byte) (n : Nat) : Byte := (a <<< n) ||| (a >>> (8 - n))

/-- One byte through the S-box. -/
def subByte (a : Byte) : Byte :=
  let b := gfInv a
  b ^^^ rotByte b 1 ^^^ rotByte b 2 ^^^ rotByte b 3 ^^^ rotByte b 4 ^^^ 0x63

def xorBytes (a b : List Byte) : List Byte := List.zipWith (· ^^^ ·) a b

/-- Row r of the state, whose bytes stand column by column, moves r columns to the left. -/
def shiftRows (st : List Byte) : List Byte := (List.range 16).map fun i => nth 0 st ((i + 4 * (i % 4)) % 16)

def mixColumn (c : List Byte) : List Byte :=
  (List.range 4).map fun i =>
    gfMul 2 (nth 0 c i) ^^^ gfMul 3 (nth 0 c ((i + 1) % 4)) ^^^ nth 0 c ((i + 2) % 4) ^^^ nth 0 c ((i + 3) % 4)

def mixColumns (st : List Byte) : List Byte := (List.range 4).flatMap fun c => mixColumn ((st.drop (4 * c)).take 4)

/-- One more word of the key schedule, whose words so far stand last first. -/
def expandStep (ws : List (List Byte)) (i : Nat) : List (List Byte) :=
  let last := nth [] ws 0
  let t :=
    if i % 8 = 0 then xorBytes ((last.drop 1 ++ last.take 1).map subByte) [1 <<< (i / 8 - 1), 0, 0, 0]
    else if i % 8 = 4 then last.map subByte
    else last
  xorBytes (nth [] ws 7) t :: ws

/-- The 15 round keys of a key of 32 bytes. -/
def roundKeys (key : List Byte) : List (List Byte) :=
  let first := (List.range 8).map fun i => (key.drop (4 * i)).take 4
  let ws := ((List.range 52).foldl (fun ws i => expandStep ws (i + 8)) first.reverse).reverse
  (List.range 15).map fun r => ((ws.drop (4 * r)).take 4).flatten

/-- One block of 16 bytes under AES-256. -/
def aesBlock (keys : List (List Byte)) (block : List Byte) : List Byte :=
  let st := (List.range 13).foldl (fun st r => xorBytes (mixColumns (shiftRows (st.map subByte))) (nth [] keys (r + 1)))
    (xorBytes block (nth [] keys 0))
  xorBytes (shiftRows (st.map subByte)) (nth [] keys 14)

/-! ### Galois counter mode -/

/-- A big-endian value of n bytes. -/
def bytesBe (v n : Nat) : List Byte := (bytesOf v n).reverse

/-- Multiplication in the field of GCM, whose bits count from the most significant. -/
def ghashMul (x y : BitVec 128) : BitVec 128 :=
  ((List.range 128).foldl (fun (p : BitVec 128 × BitVec 128) i =>
    (if x.getLsbD (127 - i) then p.1 ^^^ p.2 else p.1,
     if p.2.getLsbD 0 then (p.2 >>> 1) ^^^ (0xE1 <<< 120) else p.2 >>> 1)) (0, y)).1

/-- The blocks of 16 bytes of a byte string, the last filled with zeros. -/
def blocks16 (b : List Byte) : List (List Byte) := (List.range ((b.length + 15) / 16)).map fun i => padTo 16 ((b.drop (16 * i)).take 16)

def ghash (h : BitVec 128) (bs : List (List Byte)) : BitVec 128 :=
  bs.foldl (fun y b => ghashMul (y ^^^ BitVec.ofNat 128 (leNat b.reverse)) h) 0

/-- The key stream from the 96-bit IV onto a text: block i takes counter i + 2. -/
def gcmStream (keys : List (List Byte)) (iv text : List Byte) : List Byte :=
  (List.range ((text.length + 15) / 16)).flatMap fun i =>
    xorBytes ((text.drop (16 * i)).take 16) (aesBlock keys (iv ++ bytesBe (i + 2) 4))

/-- The tag over what is authenticated only and the ciphertext. -/
def gcmTag (keys : List (List Byte)) (iv header cipher : List Byte) : List Byte :=
  let h := BitVec.ofNat 128 (leNat (aesBlock keys (List.replicate 16 0)).reverse)
  let s := ghash h (blocks16 header ++ blocks16 cipher ++ [bytesBe (8 * header.length) 8 ++ bytesBe (8 * cipher.length) 8])
  xorBytes (bytesBe s.toNat 16) (aesBlock keys (iv ++ bytesBe 1 4))

/-- AES-256-GCM: ciphertext and 16-byte tag (R350). -/
def gcmSeal (key iv header plain : List Byte) : List Byte × List Byte :=
  let keys := roundKeys (padTo 32 key)
  let cipher := gcmStream keys iv plain
  (cipher, gcmTag keys iv header cipher)

/-- AES-256-GCM: plaintext when the tag verifies (R350). -/
def gcmOpen (key iv header cipher tag : List Byte) : Option (List Byte) :=
  let keys := roundKeys (padTo 32 key)
  if tag = gcmTag keys iv header cipher then some (gcmStream keys iv cipher) else none

/-! ### SHAKE256 -/

def rotLane (a : DWord) (n : Nat) : DWord := (a <<< n) ||| (a >>> (64 - n))

/-- How far each lane turns, by its place x + 5y. -/
def keccakTurns : List Nat := [0, 1, 62, 28, 27, 36, 44, 6, 55, 20, 3, 10, 43, 25, 39, 41, 45, 15, 21, 8, 18, 2, 61, 56, 14]

/-- The constants of the 24 rounds. -/
def keccakRounds : List DWord :=
  [0x0000000000000001, 0x0000000000008082, 0x800000000000808A, 0x8000000080008000, 0x000000000000808B, 0x0000000080000001,
   0x8000000080008081, 0x8000000000008009, 0x000000000000008A, 0x0000000000000088, 0x0000000080008009, 0x000000008000000A] ++
  [0x000000008000808B, 0x800000000000008B, 0x8000000000008089, 0x8000000000008003, 0x8000000000008002, 0x8000000000000080,
   0x000000000000800A, 0x800000008000000A, 0x8000000080008081, 0x8000000000008080, 0x0000000080000001, 0x8000000080008008]

/-- One round of the permutation on 25 lanes. -/
def keccakRound (a : List DWord) (rc : DWord) : List DWord :=
  let at_ (l : List DWord) (x y : Nat) : DWord := nth 0 l (x % 5 + 5 * (y % 5))
  let c := (List.range 5).map fun x => at_ a x 0 ^^^ at_ a x 1 ^^^ at_ a x 2 ^^^ at_ a x 3 ^^^ at_ a x 4
  let a := (List.range 25).map fun i => nth 0 a i ^^^ nth 0 c ((i + 4) % 5) ^^^ rotLane (nth 0 c ((i + 1) % 5)) 1
  -- the lane at (x, y) turns and goes to (y, 2x + 3y)
  let b := (List.range 25).map fun i =>
    let x := (i % 5 + 3 * (i / 5)) % 5
    let y := i % 5
    rotLane (at_ a x y) (nth 0 keccakTurns (x + 5 * y))
  (List.range 25).map fun i =>
    let v := nth 0 b i ^^^ (~~~ at_ b (i + 1) (i / 5) &&& at_ b (i + 2) (i / 5))
    if i = 0 then v ^^^ rc else v

def keccak (a : List DWord) : List DWord := keccakRounds.foldl keccakRound a

/-- One block of 136 bytes goes in. -/
def keccakAbsorb (a : List DWord) (block : List Byte) : List DWord :=
  keccak ((List.range 25).map fun i => nth 0 a i ^^^ (if i < 17 then BitVec.ofNat 64 (leNat ((block.drop (8 * i)).take 8)) else 0))

/-- `blocks` blocks of 136 bytes come out. -/
def keccakSqueeze : Nat → List DWord → List Byte
  | 0, _ => []
  | n + 1, a => (a.take 17).flatMap (fun w => bytesOf w.toNat 8) ++ keccakSqueeze n (keccak a)

/-- A message with the closing bits of SHAKE256, in blocks of 136 bytes. -/
def shakePad (m : List Byte) : List Byte :=
  let k := 135 - m.length % 136
  if k = 0 then m ++ [0x9F] else m ++ [0x1F] ++ List.replicate (k - 1) 0 ++ [0x80]

/-- SHAKE256 of a byte string, the first `n` bytes of its output (R415, R418, R430). -/
def shake256 (data : List Byte) (n : Nat) : List Byte :=
  let m := shakePad data
  let a := (List.range (m.length / 136)).foldl (fun a i => keccakAbsorb a ((m.drop (136 * i)).take 136)) (List.replicate 25 0)
  (keccakSqueeze ((n + 135) / 136) a).take n

end Sys2Proof.Machine
end

