-- ==== Sys2Proof/Machine/Num.lean ====
section
/-!
DEFINITION. Number formats, rounding and exceptions (04_number_formats.md): exact reals, the floating-point encodings,
`round_to_format` and the helpers beside it, `int_result`, conversions, quantisation and stochastic rounding.
-/
namespace Sys2Proof.Machine

/-! ### Exact reals -/

/-- The exact real (-1)^neg × num / den × 2^exp; a zero keeps its sign. -/
structure Ex where
  neg : Bool
  num : Nat
  den : Nat
  exp : Int
deriving DecidableEq, Repr

/-- A floating-point value: a NaN with its sign, signalling or not, and its payload of `pb` bits; an infinity; a real. -/
inductive FV where
  | nan (neg sig : Bool) (pay pb : Nat)
  | inf (neg : Bool)
  | fin (e : Ex)
deriving DecidableEq, Repr

def Ex.zero (neg : Bool) : Ex := { neg, num := 0, den := 1, exp := 0 }
def Ex.ofInt (i : Int) : Ex := { neg := decide (i < 0), num := i.natAbs, den := 1, exp := 0 }
def Ex.isZero (a : Ex) : Bool := decide (a.num = 0)
def Ex.negate (a : Ex) : Ex := { a with neg := !a.neg }
def Ex.abs (a : Ex) : Ex := { a with neg := false }
def Ex.mul (a b : Ex) : Ex := { neg := a.neg != b.neg, num := a.num * b.num, den := a.den * b.den, exp := a.exp + b.exp }
/-- The quotient by a value that is not zero. -/
def Ex.div (a b : Ex) : Ex := { neg := a.neg != b.neg, num := a.num * b.den, den := a.den * b.num, exp := a.exp - b.exp }
/-- a × 2^k. -/
def Ex.scale (a : Ex) (k : Int) : Ex := { a with exp := a.exp + k }

/-- The signed numerator of `a` over the denominator a.den × d and the exponent e, which is at most a.exp. -/
def Ex.signed (a : Ex) (d : Nat) (e : Int) : Int :=
  let m : Int := ((a.num * d * 2 ^ (a.exp - e).toNat : Nat) : Int)
  if a.neg then -m else m

/-- The sum; a zero sum of operands of opposite sign is -0 when `rdn` and +0 otherwise (R96). -/
def Ex.add (a b : Ex) (rdn : Bool) : Ex :=
  let e := min a.exp b.exp
  let t := a.signed b.den e + b.signed a.den e
  if t = 0 then Ex.zero (if a.neg = b.neg then a.neg else rdn)
  else { neg := decide (t < 0), num := t.natAbs, den := a.den * b.den, exp := e }

/-- Compares two reals: negative, zero or positive. -/
def Ex.cmp (a b : Ex) : Int :=
  let e := min a.exp b.exp
  a.signed b.den e - b.signed a.den e

/-- floor(log2 |a|) for a nonzero real. -/
def Ex.log2 (a : Ex) : Int :=
  let k : Int := (Nat.log2 a.num : Int) - (Nat.log2 a.den : Int)
  let ge := if 0 ≤ k then decide (a.den * 2 ^ k.toNat ≤ a.num) else decide (a.den ≤ a.num * 2 ^ (-k).toNat)
  (if ge then k else k - 1) + a.exp

/-- |a| / 2^q as a fraction of naturals. -/
def Ex.over (a : Ex) (q : Int) : Nat × Nat :=
  let s := a.exp - q
  if 0 ≤ s then (a.num * 2 ^ s.toNat, a.den) else (a.num, a.den * 2 ^ (-s).toNat)

/-! ### Formats (R87, R88) -/

inductive Fmt where
  | f64 | f32 | f16 | bf16 | e4m3 | e5m2 | e2m1
deriving DecidableEq, Repr

def Fmt.ebits : Fmt → Nat
  | .f64 => 11 | .f32 => 8 | .f16 => 5 | .bf16 => 8 | .e4m3 => 4 | .e5m2 => 5 | .e2m1 => 2
def Fmt.fbits : Fmt → Nat
  | .f64 => 52 | .f32 => 23 | .f16 => 10 | .bf16 => 7 | .e4m3 => 3 | .e5m2 => 2 | .e2m1 => 1
def Fmt.bias : Fmt → Int
  | .f64 => 1023 | .f32 => 127 | .f16 => 15 | .bf16 => 127 | .e4m3 => 7 | .e5m2 => 15 | .e2m1 => 1
def Fmt.emin (f : Fmt) : Int := 1 - f.bias
def Fmt.p (f : Fmt) : Nat := f.fbits + 1
/-- The sign bit's weight. -/
def Fmt.signW (f : Fmt) : Nat := 2 ^ (f.ebits + f.fbits)
/-- The code of the largest finite magnitude (R87). -/
def Fmt.maxCode : Fmt → Nat
  | .f64 => 0x7FEFFFFFFFFFFFFF | .f32 => 0x7F7FFFFF | .f16 => 0x7BFF | .bf16 => 0x7F7F | .e4m3 => 0x7E | .e5m2 => 0x7B
  | .e2m1 => 0x7
/-- FP64, FP32, FP16 or BF16: the formats on which FTZ acts (R98). -/
def Fmt.wide : Fmt → Bool
  | .f64 | .f32 | .f16 | .bf16 => true
  | _ => false
/-- Formats that have infinities (R87). -/
def Fmt.hasInf : Fmt → Bool
  | .e4m3 | .e2m1 => false
  | _ => true

def signed (f : Fmt) (neg : Bool) (mag : Nat) : Nat := if neg then f.signW + mag else mag
/-- The code of an infinity. -/
def Fmt.infCode (f : Fmt) : Nat := (2 ^ f.ebits - 1) * 2 ^ f.fbits
/-- The magnitude of the default NaN (R97). -/
def Fmt.nanCode : Fmt → Nat
  | .e4m3 => 0x7F | .e2m1 => 0
  | f => f.infCode + 2 ^ (f.fbits - 1)

/-- The value of a code (R88). -/
def Fmt.value (f : Fmt) (code : Nat) : FV :=
  let neg := decide (code / f.signW % 2 = 1)
  let e := code / 2 ^ f.fbits % 2 ^ f.ebits
  let fr := code % 2 ^ f.fbits
  if f = .e4m3 ∧ e = 15 ∧ fr = 7 then .nan neg false 0 0
  else if f.hasInf ∧ e = 2 ^ f.ebits - 1 then
    if fr = 0 then .inf neg
    else .nan neg (decide (fr / 2 ^ (f.fbits - 1) = 0)) (fr % 2 ^ (f.fbits - 1)) (f.fbits - 1)
  else if e = 0 then .fin { neg, num := fr, den := 1, exp := f.emin - f.fbits }
  else .fin { neg, num := 2 ^ f.fbits + fr, den := 1, exp := e - f.bias - f.fbits }

/-- The value of an E8M0 code (R88). -/
def e8m0Value (code : Nat) : FV :=
  if code % 256 = 255 then .nan false false 0 0
  else .fin { neg := false, num := 1, den := 1, exp := (code % 256 : Nat) - 127 }

/-! ### Flags and rounding modes (R64, R94) -/

def fV : Flags := 1
def fZ : Flags := 2
def fO : Flags := 4
def fU : Flags := 8
def fI : Flags := 16

inductive Rm where
  | rne | rtz | rdn | rup | rna
deriving DecidableEq, Repr

def Rm.ofCode : Nat → Rm
  | 1 => .rtz | 2 => .rdn | 3 => .rup | 4 => .rna | _ => .rne

/-- n / d rounded to an integer, for a magnitude of sign `neg` (R91, R92). -/
def roundDiv (n d : Nat) (neg : Bool) : Rm → Nat
  | .rne => let lo := n / d; let r := n % d
            if 2 * r < d then lo else if d < 2 * r then lo + 1 else lo + lo % 2
  | .rna => if 2 * (n % d) < d then n / d else n / d + 1
  | .rtz => n / d
  | .rdn => if n % d = 0 then n / d else if neg then n / d + 1 else n / d
  | .rup => if n % d = 0 then n / d else if neg then n / d else n / d + 1

/-- `overflow_result` of R95: code and flags O, I. -/
def overflowResult (f : Fmt) (neg : Bool) (rm : Rm) (nonsat : Bool) : Nat × Flags :=
  let toInf : Bool := match rm with
    | .rne | .rna => true | .rtz => false | .rdn => neg | .rup => !neg
  let mag := if f.wide || (nonsat && decide (f = .e5m2)) then (if toInf then f.infCode else f.maxCode)
    else if nonsat && decide (f = .e4m3) then (if toInf then f.nanCode else f.maxCode)
    else f.maxCode
  (signed f neg mag, fO ||| fI)

/-- `infinite_input` of R92. -/
def infiniteInput (f : Fmt) (neg nonsat : Bool) : Nat × Flags :=
  if f.wide || (nonsat && decide (f = .e5m2)) then (signed f neg f.infCode, 0)
  else if nonsat && decide (f = .e4m3) then (signed f neg f.nanCode, fV)
  else (signed f neg f.maxCode, fO ||| fI)

/-- `tiny_after_rounding` of R91, rounding with the sign of v. (DEDUCED, assumption 65.) -/
def tinyAfter (f : Fmt) (a : Ex) (rm : Rm) : Bool :=
  let e := a.log2
  if f.emin ≤ e then false
  else
    let o := a.over (e - f.p + 1)
    !(decide (e = f.emin - 1) && decide (2 ^ f.p ≤ roundDiv o.1 o.2 a.neg rm))

/-- `round_to_format` of R91 for an exact real. -/
def roundEx (f : Fmt) (rm : Rm) (nonsat : Bool) (a : Ex) : Nat × Flags :=
  if a.num = 0 then (signed f a.neg 0, 0)
  else
    let e := max a.log2 f.emin
    let o := a.over (e - f.p + 1)
    let n := roundDiv o.1 o.2 a.neg rm
    let mag := (e - f.emin).toNat * 2 ^ f.fbits + n
    if f.maxCode < mag then overflowResult f a.neg rm nonsat
    else
      let inexact := decide (o.1 % o.2 ≠ 0)
      (signed f a.neg mag, (if inexact then fI else 0) ||| (if inexact && tinyAfter f a rm then fU else 0))

/-- A NaN as a result in a format (R97): the sign kept, the quiet bit set, the payload cut or extended. -/
def nanCode (f : Fmt) (neg : Bool) (pay pb : Nat) : Nat × Flags :=
  match f with
  | .e4m3 => (signed f neg 0x7F, 0)
  | .e2m1 => (0, fV)
  | _ =>
    let w := f.fbits - 1
    let p := if w ≤ pb then pay / 2 ^ (pb - w) else pay * 2 ^ (w - pb)
    (signed f neg (f.infCode + 2 ^ w + p), 0)

/-- A floating-point result in a format: rounding, infinities (R92) and NaNs (R97), with V for a signalling NaN. -/
def roundFV (f : Fmt) (rm : Rm) (nonsat : Bool) : FV → Nat × Flags
  | .fin a => roundEx f rm nonsat a
  | .inf n => infiniteInput f n nonsat
  | .nan n sg p pb => let r := nanCode f n p pb; (r.1, r.2 ||| (if sg then fV else 0))

/-- The default NaN of a format with V (R97). -/
def defaultNan (f : Fmt) : Nat × Flags := (f.nanCode, fV)

/-- FTZ on an input code of a wide format (R98). -/
def ftzIn (f : Fmt) (ftz : Bool) (code : Nat) : Nat :=
  if ftz && f.wide && decide (code / 2 ^ f.fbits % 2 ^ f.ebits = 0) then code / f.signW % 2 * f.signW else code
/-- FTZ on a result (R98). -/
def ftzOut (f : Fmt) (ftz : Bool) (r : Nat × Flags) : Nat × Flags :=
  if ftz && f.wide && decide (r.1 / 2 ^ f.fbits % 2 ^ f.ebits = 0) && decide (r.1 % 2 ^ f.fbits ≠ 0) then
    (r.1 / f.signW % 2 * f.signW, r.2 ||| fU ||| fI)
  else r

/-! ### Integers (R92, R101, R102) -/

/-- `round_to_integer` of R92, with whether it was inexact. -/
def roundInt (a : Ex) (rm : Rm) : Int × Bool :=
  let o := a.over 0
  let n := roundDiv o.1 o.2 a.neg rm
  (if a.neg then -(n : Int) else n, decide (o.1 % o.2 ≠ 0))

def intLo (n : Nat) (sg : Bool) : Int := if sg then -(2 ^ (n - 1) : Nat) else 0
def intHi (n : Nat) (sg : Bool) : Int := if sg then (2 ^ (n - 1) : Nat) - 1 else (2 ^ n : Nat) - 1

/-- `int_result` of R102. -/
def intResult (isat : Bool) (v : Int) (n : Nat) (sg : Bool) : Int :=
  if isat then max (intLo n sg) (min (intHi n sg) v)
  else
    let w := v % ((2 ^ n : Nat) : Int)
    if sg && decide (intHi n sg < w) then w - ((2 ^ n : Nat) : Int) else w

/-- The conversion to an integer type of R101. -/
def toIntType (v : FV) (n : Nat) (sg : Bool) (rm : Rm) : Int × Flags :=
  match v with
  | .nan .. => (0, fV)
  | .inf neg => (if neg then intLo n sg else intHi n sg, fV)
  | .fin a =>
    let r := roundInt a rm
    if r.1 < intLo n sg then (intLo n sg, fV)
    else if intHi n sg < r.1 then (intHi n sg, fV)
    else (r.1, if r.2 then fI else 0)

/-! ### Arithmetic on values -/

/-- The first NaN of a list of operands as a result, with V when any operand signals (R97, R94). -/
def nanResult (f : Fmt) (ops : List FV) : Option (Nat × Flags) :=
  let sig := ops.any fun v => match v with | .nan _ s _ _ => s | _ => false
  match ops.find? (fun v => match v with | .nan .. => true | _ => false) with
  | some (.nan n _ p pb) => let r := nanCode f n p pb; some (r.1, r.2 ||| (if sig then fV else 0))
  | _ => none

/-- Sum of two values that are not NaNs; `none` for infinities of opposite sign. -/
def FV.add (a b : FV) (rdn : Bool) : Option FV :=
  match a, b with
  | .fin x, .fin y => some (.fin (x.add y rdn))
  | .inf s, .inf t => if s = t then some (.inf s) else none
  | .inf s, _ => some (.inf s)
  | _, b => some b

/-- Product of two values that are not NaNs; `none` for zero times infinity. -/
def FV.mul (a b : FV) : Option FV :=
  match a, b with
  | .fin x, .fin y => some (.fin (x.mul y))
  | .inf s, .inf t => some (.inf (s != t))
  | .inf s, .fin y => if y.num = 0 then none else some (.inf (s != y.neg))
  | .fin x, .inf t => if x.num = 0 then none else some (.inf (x.neg != t))
  | a, _ => some a

def FV.negate : FV → FV
  | .nan n s p b => .nan n s p b
  | .inf n => .inf (!n)
  | .fin e => .fin e.negate

/-- Rounds the outcome of an operation: the default NaN with V when it is invalid. -/
def finish (f : Fmt) (rm : Rm) : Option FV → Nat × Flags
  | none => defaultNan f
  | some v => roundFV f rm false v

/-- a + b in a format (R97 for NaNs in order). -/
def addFV (f : Fmt) (rm : Rm) (a b : FV) : Nat × Flags :=
  (nanResult f [a, b]).getD (finish f rm (a.add b (decide (rm = .rdn))))
/-- a - b: b is negated as a number only (R110, R239). -/
def subFV (f : Fmt) (rm : Rm) (a b : FV) : Nat × Flags :=
  (nanResult f [a, b]).getD (finish f rm (a.add b.negate (decide (rm = .rdn))))
def mulFV (f : Fmt) (rm : Rm) (a b : FV) : Nat × Flags :=
  (nanResult f [a, b]).getD (finish f rm (a.mul b))

/-- The fused a × b + c, or a × b + (-c): one rounding; NaNs in the order a, b, c; an invalid product raises V also when c
is a NaN (R239). -/
def fmaFV (f : Fmt) (rm : Rm) (a b c : FV) (sub : Bool) : Nat × Flags :=
  let inv := (a.mul b).isNone
  match nanResult f [a, b, c] with
  | some r => (r.1, r.2 ||| (if inv then fV else 0))
  | none =>
    match a.mul b with
    | none => defaultNan f
    | some p => finish f rm (p.add (if sub then c.negate else c) (decide (rm = .rdn)))

/-- Order of two values that are not NaNs, with -0 equal to +0. -/
def FV.cmp (a b : FV) : Int :=
  match a, b with
  | .fin x, .fin y => x.cmp y
  | .inf s, .inf t => if s = t then 0 else if s then -1 else 1
  | .inf s, _ => if s then -1 else 1
  | _, .inf t => if t then 1 else -1
  | _, _ => 0

def FV.isNan : FV → Bool
  | .nan .. => true
  | _ => false
def FV.isSig : FV → Bool
  | .nan _ s _ _ => s
  | _ => false
def FV.neg : FV → Bool
  | .nan n _ _ _ => n
  | .inf n => n
  | .fin e => e.neg

/-- FMIN and FMAX (R241), on codes already flushed: the smaller (or larger) operand as it stands, -0 below +0. -/
def fminmax (f : Fmt) (isMax : Bool) (a b : Nat) : Nat × Flags :=
  let va := f.value a
  let vb := f.value b
  match va.isNan, vb.isNan with
  | true, true => (nanResult f [va, vb]).getD (0, 0)
  | true, false => (b, if va.isSig then fV else 0)
  | false, true => (a, if vb.isSig then fV else 0)
  | false, false =>
    let c := va.cmp vb
    let aLess := decide (c < 0) || (decide (c = 0) && va.neg)
    (if aLess != isMax then a else b, 0)

/-! ### Conversions to E8M0, MX and asymmetric codes (R103 to R105) -/

/-- FP32 value to E8M0 (R103). -/
def toE8m0 : FV → Nat × Flags
  | .fin a =>
    if a.neg || decide (a.num = 0) then (0xFF, fV)
    else
      let e := a.log2
      if e < -127 then (0, fU ||| fI)
      else ((e + 127).toNat, if (a.over e).1 % (a.over e).2 = 0 ∧ (a.over e).1 / (a.over e).2 = 1 then 0 else fI)
  | _ => (0xFF, fV)

/-- `asym_quant` of R105; `g` is the group word. -/
def asymQuant (v : FV) (g : Word) (qmax : Nat) (rm : Rm) : Nat × Flags :=
  let zp : Nat := if qmax = 15 then fld g 16 4 else fld g 16 8
  match Fmt.f16.value (fld g 0 16), v with
  | .fin s, .fin a =>
    if s.num = 0 then (zp, fV)
    else
      let r := roundInt (a.div s) rm
      let t := r.1 + zp
      if t < 0 then (0, fO ||| fI) else if (qmax : Int) < t then (qmax, fO ||| fI) else (t.toNat, if r.2 then fI else 0)
  | .fin s, .inf n =>
    if s.num = 0 then (zp, fV) else if n != s.neg then (0, fO ||| fI) else (qmax, fO ||| fI)
  | _, _ => (zp, fV)

/-- `mix32` of R107. -/
def mix32 (seed index : Word) : Word :=
  let h := seed ^^^ (index * 0x9E3779B9)
  let h := h ^^^ (h >>> 16)
  let h := h * 0x85EBCA6B
  let h := h ^^^ (h >>> 13)
  let h := h * 0xC2B2AE35
  h ^^^ (h >>> 16)

/-- `srnd` of R108 for an FP32 value. -/
def srnd (v : FV) (f : Fmt) (seed index : Word) : Nat × Flags :=
  match v with
  | .nan n sg p pb => let r := nanCode f n p pb; (r.1, r.2 ||| (if sg then fV else 0))
  | .inf n => if f.wide then (signed f n f.infCode, 0) else (signed f n f.maxCode, fO ||| fI)
  | .fin a =>
    if a.num = 0 then (signed f a.neg 0, 0)
    else
      let e := max a.log2 f.emin
      let o := a.over (e - f.p + 1)
      let lo := o.1 / o.2
      let dsc := o.1 % o.2 * 2 ^ 32 / o.2
      let n := if (mix32 seed index).toNat < dsc then lo + 1 else lo
      let mag := (e - f.emin).toNat * 2 ^ f.fbits + n
      if f.maxCode < mag then overflowResult f a.neg .rtz false
      else
        let inexact := decide (o.1 % o.2 ≠ 0)
        (signed f a.neg mag, (if inexact then fI else 0) ||| (if inexact && decide (mag < 2 ^ f.fbits) then fU else 0))

/-- `qrange` of R109: the group word, the flags, and whether the range is zero (DR). -/
def qrange (lo hi : FV) (qmax : Nat) : Word × Flags × Bool :=
  let word (zp s : Nat) : Word := BitVec.ofNat 32 (zp * 0x10000 + s)
  match lo, hi with
  | .fin a, .fin b =>
    let c := a.cmp b
    if 0 < c then (word 0 0x3C00, fV, false)
    else if c = 0 then
      let r := roundInt a .rne
      let zp : Nat := if !r.2 && decide (0 ≤ r.1) && decide (r.1 ≤ qmax) then 0
        else if !r.2 && decide (-(qmax : Int) ≤ r.1) && decide (r.1 < 0) then r.1.natAbs
        else if a.neg then qmax else 0
      (word zp 0x3C00, 0, true)
    else
      let d := b.add a.negate false
      let s := roundEx .f16 .rup false { d with den := d.den * qmax }
      let sc := if s.1 = Fmt.f16.infCode then 0x7BFF else s.1
      match Fmt.f16.value sc with
      | .fin sv =>
        let z := (roundInt (a.negate.div sv) .rne).1
        (word (max 0 (min (qmax : Int) z)).toNat sc, s.2, false)
      | _ => (word 0 sc, s.2, false)
  | _, _ => (word 0 0x3C00, fV, false)

end Sys2Proof.Machine
end

