-- ==== Sys2Proof/Machine/Flags.lean ====
section
/-!
DEFINITION. Where exceptions accumulate and when they trap (R65 to R68), and the writes of fpst and kstat (R9, R255).
-/
namespace Sys2Proof.Machine

/-- The five flags at the sticky positions of fpst, bits [7:3]. -/
def fpstFlags (fl : Flags) : Word := fl.setWidth 32 <<< 3

/-- The raised exceptions whose enable bit is set, at the sticky positions (R66). -/
def enabledOf (fpst : Word) (fl : Flags) : Word := fpstFlags fl &&& (fpst >>> 5)

/-- Raises exceptions in a thread: its fpst with the flags ORed in, or the mask of enabled ones, which traps (R66). -/
def raise (fpst : Word) (fl : Flags) : Except Nat Word :=
  if enabledOf fpst fl = 0 then .ok (fpst ||| fpstFlags fl) else .error (enabledOf fpst fl).toNat

/-- ORs flags into kstat.MV to MI (R68). -/
def Line.orKstat (l : Line) (fl : Flags) : Line := { l with kstat := l.kstat ||| fl.setWidth 32 }
/-- Sets kstat.DR (R67, R253). -/
def Line.setDr (l : Line) : Line := { l with kstat := l.kstat ||| 0x20 }
/-- ORs tile bits into kstat.SO (R141). -/
def Line.orSo (l : Line) (tiles : Nat) : Line := { l with kstat := l.kstat ||| BitVec.ofNat 32 (tiles * 64) }

/-- A write of fpst (R65, R256): RM keeps its value for 5 to 7; reserved bits stay. -/
def fpstWrite (old v : Word) : Word :=
  (old &&& 0xFFFFE000) ||| (v &&& 0x1FF8) ||| (if 4 < fld v 0 3 then old &&& 7 else v &&& 7)

/-- A write of the kstat word (R67, R255): write-one-to-clear fields clear, the rest stays. -/
def kstatWrite (old v : Word) : Word := old &&& ~~~(v &&& 0x3FF)

/-- The rounding mode of thread j: lmode.RM, or the thread's own under DYN (R93). -/
def Line.rmOf (l : Line) (j : Nat) : Rm := if l.rm = 5 then Rm.ofCode (fld (l.fpst j) 0 3) else Rm.ofCode l.rm
/-- The rounding mode of a line-uniform instruction: RNE under DYN (R93). -/
def Line.rmUniform (l : Line) : Rm := if l.rm = 5 then .rne else Rm.ofCode l.rm

end Sys2Proof.Machine
end

