-- ==== Sys2Proof/Machine/Operands.lean ====
section
/-!
DEFINITION. How an instruction issues: the operand checks of R211, operand forms (registers, ports, taps), the ports'
address patterns, the thread-by-thread issue of a per-thread instruction and the issue of a line-uniform one.
-/
namespace Sys2Proof

/-- A field that an ADDI reads: an x register, a port or a tap e0, e2 (R232); ports are read by popping. -/
def Fld.toSrc : Fld → Src
  | .r n => .x n
  | .q n => .pop n
  | .e n => .tap n
  | .rsv n => .rsv n
/-- The register number of a class-0 field. -/
def Fld.num : Fld → Nat
  | .r n => n
  | .q n => n
  | .e n => n
  | .rsv n => n

/-! ### Types (R63, R224, R225) -/

/-- A 64-bit operand width (R224). -/
def Ty.dbl : Ty → Bool
  | .s64 | .n64 | .f64 => true
  | _ => false
def Ty.isInt : Ty → Bool
  | .s32 | .n32 | .s16 | .n16 | .s8 | .n8 | .s64 | .n64 => true
  | _ => false
/-- Element width of a type in bits. -/
def Ty.bits : Ty → Nat
  | .s64 | .n64 | .f64 => 64
  | .s32 | .n32 | .f32 => 32
  | .s16 | .n16 | .f16 | .bf16 => 16
  | .s8 | .n8 | .e4m3 | .e5m2 | .e8m0 | .i8 => 8
  | .e2m1 | .i4 => 4
def Ty.sgn : Ty → Bool
  | .s32 | .s16 | .s8 | .s64 => true
  | _ => false
/-- FARITH and FCMP types (R225). -/
def Ty.isArith : Ty → Bool
  | .f16 | .bf16 | .f32 | .f64 => true
  | _ => false
/-- The format of a floating-point type. -/
def Ty.fmt : Ty → Machine.Fmt
  | .f64 => .f64 | .f16 => .f16 | .bf16 => .bf16 | .e4m3 => .e4m3 | .e5m2 => .e5m2 | .e2m1 => .e2m1 | _ => .f32

/-- The registers of a field, as a pair or not; x0 names no pair: x1 is neither read nor written through it (R59). -/
def regs (dbl : Bool) (n : Nat) : List Nat := if dbl && decide (n ≠ 0) then [n, n + 1] else [n]
def Fld.xregs (dbl : Bool) : Fld → List Nat
  | .r n => regs dbl n
  | _ => []
def Src.xregs (dbl : Bool) : Src → List Nat
  | .x n => regs dbl n
  | _ => []
def Src.kregs (dbl : Bool) : Src → List Nat
  | .k n => regs dbl n
  | _ => []

end Sys2Proof

namespace Sys2Proof.Machine

/-! ### Issuing (R25, R54, R55) -/

/-- The word of an instruction, for its fault record. -/
def iword (i : Instr) : Word := (encode i).getD 0

/-- What one thread of an instruction, or a line-uniform instruction, comes to. -/
inductive TRes where
  | ok (s : State) (l : Line)
  | wait (s : State) (w : Wait)
  | trap (f : FaultInfo)
  /-- the state is already whole: nothing more happens to the line -/
  | done (s : State)

/-- Runs a function on the line that issues. (DESIGN CHOICE, assumption 2.) -/
def onLine (s : State) (f : Line → Out) : Out :=
  match s.cur with
  | none => .fault .noIssuingLine
  | some r =>
    match s.line r with
    | none => .fault .noIssuingLine
    | some l => f l

/-- Whether a global or host write of the line still waits for its translation: it may fault, and what follows it be undone (R197). -/
def State.walking (s : State) (r : LineRef) : Bool :=
  s.flight.any fun a => (match a.issuer with | .line q _ => decide (q = r) | _ => false) &&
    (match a.phase with | .unconfirmed _ => true | _ => false)

/-- A peer store or atomic whose destination has not answered: its translation and region check are open (R196, R406). -/
def PeerWait.isOpenWrite (w : PeerWait) (r : LineRef) : Bool :=
  decide (w.issuer = r) && decide (w.kind ≠ .load) && !w.red && w.done.isNone

/-- Whether an earlier write of the line, global or peer, is not yet confirmed (R196). (DEDUCED, assumption 14.) -/
def State.unconfirmed (s : State) (r : LineRef) : Bool := s.walking r || s.fab.waits.any fun w => w.isOpenWrite r

/-- The line waits; it looks again at thread tri when the wait is over. -/
def State.park (s : State) (l : Line) (w : Wait) (j : Nat) : State :=
  s.setLine { l with status := .wait w, tri := j }

/-- The 64-bit address of a global access (R257). -/
def farVa (l : Line) (j : Nat) (a b : Fld) : Nat := (l.xd j a.num + (l.kr b.num).signExtend 64).toNat

/-- The global address that a thread of an instruction forms. -/
def globalAddr : Instr → Line → Nat → Option Nat
  | .ldg _ _ _ _ a b, l, j => some (farVa l j a b)
  | .stg _ _ _ a b, l, j => some (farVa l j a b)
  | .atg _ _ _ a _, l, j => some (l.xd j a.num).toNat
  | _, _, _ => none

/-! ### Address patterns (R73, R74) -/

/-- Where the element at a position lies. -/
inductive Elem where
  | ended
  | pad
  | at_ (addr : Int)
deriving DecidableEq, Repr

abbrev Desc := Vector Word 10

def descW (d : Desc) (n : Nat) : Word := d.getD n 0
/-- Element count of each dimension. -/
def descN0 (d : Desc) : Nat := fld (descW d 2) 16 16 + 1
def descN1 (d : Desc) : Nat := fld (descW d 3) 0 16 + 1
def descN2 (d : Desc) : Nat := fld (descW d 3) 16 16 + 1
def descN3 (d : Desc) : Nat := fld (descW d 4) 0 16 + 1
def descTotal (d : Desc) : Nat := (descN0 d) * (descN1 d) * (descN2 d) * (descN3 d)
def descSpace (d : Desc) : Nat := fld (descW d 1) 25 3
def descTag (d : Desc) : Nat := fld (descW d 1) 29 2
def descOobz (d : Desc) : Bool := bit (descW d 1) 28
def descEsize (d : Desc) : Nat := fld (descW d 2) 0 3
def descBase (d : Desc) : Nat := fld (descW d 1) 0 25 * 0x100000000 + (descW d 0).toNat

/-- The element at a position (R74). -/
def descElem (d : Desc) (pos : Nat) : Elem :=
  if (descTotal d) ≤ pos then .ended
  else
    let i0 := pos % (descN0 d)
    let i1 := pos / (descN0 d) % (descN1 d)
    let i2 := pos / ((descN0 d) * (descN1 d)) % (descN2 d)
    let i3 := pos / ((descN0 d) * (descN1 d) * (descN2 d)) % (descN3 d)
    let addr : Int := (descBase d) + i0 * (descW d 5).toInt + i1 * (descW d 6).toInt + i2 * (descW d 7).toInt + i3 * (descW d 8).toInt
    let col : Int := i2 * (fld (descW d 9) 24 4 + 1) + i1 * (fld (descW d 9) 28 4 + 1) - (fld (descW d 9) 16 8 : Nat)
    if bit (descW d 1) 31 && (decide (col < 0) || decide ((fld (descW d 9) 0 16 : Int) < col)) then .pad else .at_ addr

/-- The elements of port n that a thread takes in the instruction of word w, counted from the port's position, and by how many the
thread advances it (R76). -/
def portTakes (w n : Nat) : List Nat × Nat :=
  let f := FormatA.ofWord w
  let is (c : Nat) : Bool := decide (c = 32 + n)
  let major := bitsAt w 26 6
  if 0x0B ≤ major ∧ major ≤ 0x11 then
    let d := is (bitsAt w 20 6)
    let a := is (bitsAt w 14 6) && decide (major ≠ 0x11)
    ((if a then [0] else []) ++ (if d then [0] else []), (if a then 1 else 0) + if d then 1 else 0)
  else
  let pops (c pk : Nat) : Nat := if is c && decide (pk = 0) then 1 else 0
  ((if is f.a then [0] else []) ++ (if is f.b then [pops f.a f.pka] else []) ++ (if is f.d then [0] else []),
   pops f.a f.pka + pops f.b f.pkb + (if is f.d then 1 else 0))

/-- Whether an element that thread k of the instruction takes from port n lies in the page of an address; `thread` is the thread
that stands at the port's position. -/
def portInPage (i : Instr) (l : Line) (n thread k addr : Nat) : Bool :=
  let t := portTakes (iword i).toNat n
  let r := (l.issueMask.filter fun m => decide (thread ≤ m) && decide (m < k)).length
  t.1.any fun e => match descElem (l.port n).desc ((l.port n).pos + r * t.2 + e) with
    | .at_ a => decide ((a % (2 ^ 64 : Nat)).toNat / 0x10000 = addr / 0x10000)
    | _ => false

/-- TMASK of a translation or protection fault: the threads of the issue mask from j whose address, or element of the port, lies in
the page (R372, R408). -/
def pageMask (i : Instr) (l : Line) (j : Nat) (f : FaultInfo) : FaultInfo :=
  if (f.cls = 0x07 ∨ f.cls = 0x08) ∧ f.reg = none then
    { f with tmask := some ((l.issueMask.filter fun k => decide (j ≤ k) &&
        (match f.port with
          | some n => portInPage i l n j k f.addr
          | none => match globalAddr i l k with | some a => decide (a / 0x10000 = f.addr / 0x10000) | none => decide (k = j))).foldl
      (fun m k => m ||| maskBit k) 0) }
  else f

/-- A fault of the line at thread j of the instruction whose word is `word`: decided now, and taken once every earlier write is confirmed,
so that every earlier instruction is complete (R55). -/
def stopAt (s : State) (l : Line) (j : Nat) (word : Word) (f : FaultInfo) : State :=
  if s.unconfirmed l.ref then s.park l (.fault { f with tick := some s.time } word) j else s.trapEntry l f l.pc j l.pc word j

/-- A fault of an instruction of the line at thread j. -/
def faultAt (s : State) (l : Line) (i : Instr) (j : Nat) (f : FaultInfo) : State :=
  stopAt s l j (iword i) (pageMask i l j f)

/-- The faults that lines have met and whose earlier writes are now confirmed are taken. -/
def State.takeFaults (s : State) : State :=
  s.lines.foldl (fun s l => match l.status with
    | .wait (.fault f word) => if s.unconfirmed l.ref then s else s.trapEntry l f l.pc l.tri l.pc word l.tri
    | _ => s) s

/-- The line after a whole instruction: the next pc, tri 0, no tap carry (R54, R86). -/
def Line.next (l : Line) : Line :=
  { l with pc := l.pc + 4, tri := 0, cv := false, carry := Vector.replicate 4 0, status := .ready, issueNo := l.issueNo + 1, fetched := [] }

/-- Ends an instruction: an open `.take` run ends, and the line goes on (R153). -/
def State.finish (s : State) (l : Line) : State := (s.endRun l).setLine { l.next with takeRun := none }

/-- The threads of a list, one after another (R25, R32, R54), and what follows the last. -/
def threadLoop (i : Instr) (f : State → Line → Nat → TRes) (last : State → Line → State) : List Nat → State → Line → State
  | [], s, l => last s l
  | j :: js, s, l =>
    match f s l j with
    | .ok s' l' => threadLoop i f last js s' l'
    | .wait s' w => s'.park l w j
    | .trap fi => faultAt s l i j fi
    | .done s' => s'

/-- The line stands between two threads of its instruction, before thread j, and goes on from there (R33, R34). -/
def State.between (j : Nat) (s : State) (l : Line) : State := s.setLine { l with tri := j, status := .ready }

/-- The threads of the issue mask from tri: all of them, or as many as the issue takes before other lanes come between. -/
def issueThreads (i : Instr) (f : State → Line → Nat → TRes) (s : State) (l : Line) : State :=
  match (if s.quantum = 0 then [] else l.issueThreads.drop s.quantum) with
  | [] => threadLoop i f State.finish l.issueThreads s l
  | k :: _ => threadLoop i f (State.between k) (l.issueThreads.take s.quantum) s l

/-- A per-thread instruction, its operand fault (R211 step 4) and its type fault (step 5) decided first. -/
def perThread (i : Instr) (operands : Line → Bool) (types : Line → Bool) (f : State → Line → Nat → TRes) (s : State) : Out :=
  onLine s fun l =>
    if !operands l then .next (faultAt s { l with tri := 0 } i 0 { cls := 0x03 })
    else if !types l then .next (faultAt s { l with tri := 0 } i 0 { cls := 0x01 })
    else .next (issueThreads i f s l)

/-- A line-uniform instruction: `f` gives the state with the line not yet advanced. -/
def uniform (i : Instr) (operands : Line → Bool) (types : Line → Bool) (f : State → Line → TRes) (s : State) : Out :=
  onLine s fun l =>
    if !operands l then .next (faultAt s l i 0 { cls := 0x03 })
    else if !types l then .next (faultAt s l i 0 { cls := 0x01 })
    else
      match f s l with
      | .ok s' l' => .next (s'.finish l')
      | .wait s' w => .next (s'.park l w 0)
      | .trap fi => .next (faultAt s l i 0 fi)
      | .done s' => .next s'

/-- Every value of lmode.TYPE is accepted. -/
def anyTy : Line → Bool := fun _ => true

/-! ### Operand checks (R38, R59, R60, R61, R85, R226) -/

/-- An x register, or with `dbl` a pair: even, both below the declared count. -/
def Line.okX (l : Line) (dbl : Bool) (n : Nat) : Bool :=
  if dbl then decide (n % 2 = 0) && decide (n + 1 < l.xregs) else decide (n < l.xregs)
def Line.okK (l : Line) (dbl : Bool) (n : Nat) : Bool :=
  if dbl then decide (n % 2 = 0) && decide (n + 1 < l.kregs) else decide (n < l.kregs)

/-- log2 of a port's element size. -/
def Port.esize (p : Port) : Nat := fld (p.desc.getD 2 0) 0 3
def Port.space (p : Port) : Nat := fld (p.desc.getD 1 0) 25 3
def Port.tag (p : Port) : Nat := fld (p.desc.getD 1 0) 29 2
def Port.oobz (p : Port) : Bool := bit (p.desc.getD 1 0) 28

/-- A port that the line may read: declared, bound for reading, its element pairing with the operand width (R61, R75). -/
def Line.okPortR (l : Line) (dbl : Bool) (n : Nat) : Bool :=
  decide (n < l.nports) && (l.port n).bound && !(l.port n).write && (if dbl then decide ((l.port n).esize = 3) else decide ((l.port n).esize < 3))
def Line.okPortW (l : Line) (dbl : Bool) (n : Nat) : Bool :=
  decide (n < l.nports) && (l.port n).bound && (l.port n).write && (if dbl then decide ((l.port n).esize = 3) else decide ((l.port n).esize < 3))

/-- A source with ports and taps (R227): `isB` for field b. -/
def Line.okSrc (l : Line) (isB dbl : Bool) : Src → Bool
  | .x n => l.okX dbl n
  | .k n => l.okK dbl n
  | .pop n | .peek n => l.okPortR dbl n
  | .tap n => isB || decide (n.val = 0) || decide (n.val = 2)
  | .rsv _ => false

/-- A class-0 x source or destination. -/
def Line.okXf (l : Line) (dbl : Bool) : Fld → Bool
  | .r n => l.okX dbl n
  | _ => false
/-- A class-0 k source or destination. -/
def Line.okKf (l : Line) (dbl : Bool) : Fld → Bool
  | .r n => l.okK dbl n
  | _ => false
/-- A k(n) that stands for k(n) and k(n + 1), with no parity rule (R289, R369). -/
def Line.okK2 (l : Line) : Fld → Bool
  | .r n => decide (n.val + 1 < l.kregs)
  | _ => false
/-- A destination that may be a push (R227). -/
def Line.okDst (l : Line) (dbl : Bool) : Fld → Bool
  | .r n => l.okX dbl n
  | .q n => l.okPortW dbl n
  | _ => false
/-- A predicate field: class 0, index 0 to 7 (R201). -/
def okPred : Fld → Bool
  | .r n => decide (n.val < 8)
  | _ => false
/-- A predicate that may not be p0 (R275, R283). -/
def okPred1 : Fld → Bool
  | .r n => decide (0 < n.val) && decide (n.val < 8)
  | _ => false
/-! ### Scoreboard (R27) -/

/-- The first register of thread j among these whose load has not returned. -/
def Line.pendingX (l : Line) (j : Nat) (ns : List Nat) : Option Nat := ns.find? fun n => l.pend.contains (j, n)
def Line.pendingK (l : Line) (ns : List Nat) : Option Nat := ns.find? fun n => l.kpend.contains n
/-- A register of thread j that a load delivered no value to, of several that of the earliest access (R55, R118). -/
def Line.failedX (l : Line) (j : Nat) (ns : List Nat) : Option (Nat × Rec) :=
  (leastBy (fun f : Nat × Nat × Rec => f.2.2.uid) (l.failed.filter fun f => decide (f.1 = j) && ns.contains f.2.1)).map (·.2)

/-- The value that was not delivered to thread j, of several that of the earliest access (R55, R118). -/
def Line.failedAt (l : Line) (j : Nat) : Option (Nat × Nat × Rec) :=
  leastBy (fun f : Nat × Nat × Rec => f.2.2.uid) (l.failed.filter fun f => decide (f.1 = j))

/-- The fault of a value that was not delivered, charged to this instruction and thread (R55). -/
def consumeFault (j n : Nat) (r : Rec) : FaultInfo :=
  { cls := r.cls, addr := r.addr, peer := r.peer, reason := r.reason, queue := r.queue, reg := some (j, n) }

/-- The registers that a thread reads and writes must be ready (R27); the guard predicate is never pending, because no load
writes a predicate but BARWAIT, whose line waits. -/
def ready (s : State) (l : Line) (j : Nat) (xs ks : List Nat) (k : TRes) : TRes :=
  match l.pendingX j xs with
  | some n => .wait s (.reg j n)
  | none =>
    match l.pendingK ks with
    | some n => .wait s (.kreg n)
    | none =>
      match l.failedX j xs with
      | some r => .trap (consumeFault j r.1 r.2)
      | none => k

/-! ### Ports (R73) -/

/-- SBIND's checks of a descriptor (R73); true when it is illegal. -/
def descIllegal (d : Desc) (write : Bool) : Bool :=
  let es := 2 ^ descEsize d
  decide (3 < (descEsize d)) || decide (2 < (descSpace d)) || decide ((descBase d) % es ≠ 0) ||
    decide ((descW d 5).toNat % es ≠ 0) || decide ((descW d 6).toNat % es ≠ 0) || decide ((descW d 7).toNat % es ≠ 0) ||
    decide ((descW d 8).toNat % es ≠ 0) ||
    ((decide ((descTag d) = 1) || decide ((descTag d) = 2)) && (decide ((descSpace d) = 0) || write)) ||
    (decide ((descTag d) = 3) && (decide ((descSpace d) = 0) || !write)) ||
    (decide ((descSpace d) = 1 ∨ (descSpace d) = 2) && decide (fld (descW d 1) 0 25 ≠ 0))

/-- The granule of a scratchpad or gallery element: the set whose window holds it and the offset there, when it lies inside
a window (R74, R148, R156). -/
def State.spadElem (s : State) (c : CSet) (space : Nat) (addr : Int) : Option (CSet × Nat) :=
  if addr < 0 then none
  else
    let a := addr.toNat
    if space = 1 then (if a < c.win then some (c, a) else none)
    else if 0x800000 ≤ a then none
    else
      match s.member c (a / 0x100000) with
      | some m => if a % 0x100000 < m.win then some (m, a % 0x100000) else none
      | none => none

/-! ### Global addresses (R145, R257, R406) -/

/-- Whether an access of a level-0 line is checked against U (R406). -/
def Line.user (l : Line) : Bool := !l.pl

/-- Whether two places overlap. -/
def Place.meets (p : Place) (n : Nat) (q : Place) (m : Nat) : Bool :=
  match p, q with
  | .dev a, .dev b => decide (a < b + m) && decide (b < a + n)
  | .host a, .host b => decide (a < b + m) && decide (b < a + n)
  | .spad r a, .spad t b => decide (r = t) && decide (a < b + m) && decide (b < a + n)
  | _, _ => false

/-- The place `n` bytes further on. -/
def Place.plus : Place → Nat → Place
  | .dev a, n => .dev (a + n)
  | .host a, n => .host (a + n)
  | .spad r a, n => .spad r (a + n)

/-! ### A line's packets to its own package (R52, R170, R337) -/

/-- The byte mask of a packet; a contribution's mask counts elements of four bytes. -/
def Packet.byteMask (p : Packet) : Nat :=
  if p.ty = 6 then (List.range 32).foldl (fun m i => if p.mask.testBit i then m + 15 * 2 ^ (4 * i) else m) 0
  else if p.ty = 4 then (2 ^ (2 ^ bitsAt p.aux 4 2) - 1) * 2 ^ (p.addr % 128)
  else p.mask

/-- Where a peer address of this package lies, by the page tables as a walk would find them now (R399, R401). -/
def State.viewPeer (s : State) (die part va : Nat) : Option Place :=
  let w : Walk := { id := 0, die, core := none, part, peer := true, va, write := false, user := false, fetch := false }
  match s.walkRoot w with
  | none => none
  | some root =>
    match (walkFrom s w part 4 root (s.time + 2 ^ 64) [] []).2 with
    | .leaf e _ => match s.leafTarget e va false false false with | .hit p _ => some p | _ => none
    | .fault .. => none

/-- Whether a packet of the loopback path names a byte of a place. -/
def State.packetMeets (s : State) (die part : Nat) (k : Packet) (p : Place) (n : Nat) : Bool :=
  match s.viewPeer die part (k.addr / 128 * 128) with
  | some q => (List.range 128).any fun i => k.byteMask.testBit i && (q.plus i).meets 1 p n
  | none => false

/-- Whether a packet of the loopback path is not performed: it has not left, it is held, or its refusal is on the way back. -/
def State.loopOpen (s : State) (e : SendEnt) (k : Packet) : Bool :=
  !e.sent || s.fab.arrived.any (fun a => decide (a.pkt = k)) ||
  s.fab.back.any fun b => decide (b.pkt.ty = 8) && decide (b.pkt.seq = k.seq) && decide (b.pkt.cls = k.cls) && decide (b.pkt.addr = k.addr)

/-- Own packets of the loopback path that are numbered below `before`, are not performed and name bytes of a place. A contribution is not
among them: the destination's sum writes, and not the line (R348). -/
def State.loopMeets (s : State) (r : LineRef) (p : Place) (n before : Nat) : Bool :=
  s.fab.sendQ.any fun e => decide (e.issuer = some r) && decide (e.pkg = s.pkg.domid) && decide (e.id < before) &&
    (match e.item with
     | .packet k => decide (k.ty ≠ 6) && s.loopOpen e k && s.packetMeets e.ddie e.part k p n
     | .marker _ => false)

/-- An access of a line that its point of coherence has not performed. -/
def Access.open_ (a : Access) (r : LineRef) : Bool :=
  (match a.issuer with | .line q _ => decide (q = r) | _ => false) &&
  (match a.phase with | .performed _ => false | _ => true)

/-- Own earlier loads and atomics of overlapping bytes that are not performed, and own packets to them by the loopback path (R52, R169,
R170). -/
def State.ownPending (s : State) (r : LineRef) (p : Place) (n : Nat) : Bool :=
  s.flight.any (fun a => a.open_ r && decide (a.kind ≠ .store) && p.meets n a.place a.size) || s.loopMeets r p n s.nextId

/-- Bytes read, with the line's own earlier stores numbered below `before` that are not performed, from the store path
(R164). -/
def State.overlay (s : State) (r : LineRef) (before : Nat) (p : Place) (bs : List Byte) : List Byte :=
  s.flight.foldl (fun bs a =>
    if a.open_ r && decide (a.kind = .store) && decide (a.id < before) && p.meets bs.length a.place a.size then
      (match p, a.place with
       | .dev x, .dev y => merge bs x a y
       | .host x, .host y => merge bs x a y
       | _, _ => bs)
    else bs) bs
where merge (bs : List Byte) (x : Nat) (a : Access) (y : Nat) : List Byte :=
  bs.zipIdx.map fun b => if y ≤ x + b.2 ∧ x + b.2 < y + a.size then nth 0 (bytesOf a.val a.size) (x + b.2 - y) else b.1

/-- Own earlier bank requests to a granule that the bank has not served, and own packets to it by the loopback path (R52, R154, R170). -/
def State.ownBank (s : State) (r : LineRef) (c : SetRef) (g : Nat) : Bool :=
  (s.bankQ ++ s.waitQ).any (fun q => decide (q.issuer = r) && decide (q.set = c) && decide (q.off / 16 = g) && decide (q.op ≠ .tile)) ||
  s.loopMeets r (.spad c (16 * g)) 16 s.nextId

/-- A value read at once (a port element, a copy element): the state, the value, or a wait or a fault. -/
inductive Rd where
  | val (s : State) (v : Nat)
  | wait (s : State) (w : Wait)
  | fault (cls : Nat) (addr : Nat)

/-- A plain read of device memory by a line's core: its L1 copy while the lease runs, else the slice, which fills the L1
(R164); the line's own earlier stores come from the store path. A word with an uncorrectable error is not delivered (R411). -/
def State.readCached (s : State) (r : LineRef) (core part ca n va : Nat) : Rd :=
  match s.l1Hit core (lineOf ca) with
  | some e => if meetsBad e.bad (ca % 128) n then .fault 0x14 va else .val s (leNat (s.overlay r s.nextId (.dev ca) ((e.bytes.drop (ca % 128)).take n)))
  | none => if s.badRead ca n then .fault 0x14 va else
    .val (s.fetchL1 core part (lineOf ca)) (leNat (s.overlay r s.nextId (.dev ca) (readBytes s.dev ca n)))

/-- Whether the fault of a page comes from an entry with V = 0 (R79, R406). -/
def State.absentPage (s : State) (die part : Nat) (peer : Bool) (va : Nat) : Bool :=
  s.faultTab.any fun f => decide (f.die = die) && decide (f.part = part) && (f.peer == peer) && decide (f.page = va / 0x10000) && f.absent

/-- A port's read of a global element (R77, R79, R406). -/
def State.readGlobal (s : State) (l : Line) (oobz : Bool) (addr : Int) (n : Nat) : Rd :=
  let va := (addr % (2 ^ 64 : Nat)).toNat
  if 2 ^ 57 ≤ va then .fault 0x04 va
  else if s.walking l.ref then .wait s .confirm
  else
    match s.translate (some l.core) (coreDie l.core) l.part false va false l.user with
    | .miss => let w := s.startWalk (some l.core) (coreDie l.core) l.part false va false l.user; .wait w.2 (.walk w.1)
    | .fault c =>
      if oobz && decide (c = 0x07) && s.absentPage (coreDie l.core) l.part false va then .val (s.dropFault (coreDie l.core) l.part false va) 0
      else .fault c va
    | .hit (.dev ca) _ =>
      if s.ownPending l.ref (.dev ca) n then .wait s (.ownStore (.dev ca) n) else s.readCached l.ref l.core l.part ca n va
    | .hit (.host a) _ =>
      if s.ownPending l.ref (.host a) n then .wait s (.ownStore (.host a) n)
      else .val s (leNat (s.overlay l.ref s.nextId (.host a) (readBytes s.hostMem a n)))
    | .hit (.spad ..) _ => .fault 0x08 va

/-! ### A bank's queue (R150, R154) -/

/-- Whether a request is held at the core: a release (R175). -/
def BankReq.held (q : BankReq) : Bool :=
  match q.op with
  | .store _ rel => rel.isSome
  | .atomic _ _ _ _ rel _ => rel.isSome
  | _ => false
/-- Whether a request belongs to a bank. -/
def State.atBank (s : State) (core bank : Nat) (q : BankReq) : Bool :=
  match s.cset q.set with
  | some c => decide (c.core = core) && decide (CSet.bankOf q.off = bank)
  | none => false
/-- Number of requests that stand in a bank's queue. -/
def State.bankLoad (s : State) (core bank : Nat) : Nat :=
  (s.bankQ.filter fun q => s.atBank core bank q && !q.held && decide (q.op ≠ .clear) && decide (q.op ≠ .tile)).length

/-- A barrier instruction's step. -/
def BankReq.isBar (q : BankReq) : Bool :=
  match q.op with | .barInit | .barArrive | .barWait _ | .barInv => true | _ => false

/-- Whether a request is an access that must have been acknowledged before its line is saved (R198): not the place in a granule's list of a pop or
of a tile's reader, which starts anew, and not a parked BARWAIT, which tests again (R275). -/
def BankReq.isAccess (q : BankReq) : Bool := match q.op with | .ticket _ | .tile | .barWait _ => false | _ => true

/-- Whether an earlier request of the same line waits on the granule (R154). -/
def State.behind (s : State) (q : BankReq) : Bool :=
  s.waitQ.any fun w => decide (w.issuer = q.issuer) && decide (w.set = q.set) && decide (w.off / 16 = q.off / 16) && decide (w.id < q.id)

/-- Whether a tile's reader that began waiting before number `before` waits on a granule (R154). -/
def State.tileWaits (s : State) (r : SetRef) (g before : Nat) : Bool :=
  s.waitQ.any fun w => decide (w.op = .tile) && decide (w.set = r) && decide (w.off / 16 = g) && decide (w.id < before)
/-- Whether a tile's reader waits on the granule before a request (R154). -/
def State.behindTile (s : State) (q : BankReq) : Bool := s.tileWaits q.set (q.off / 16) q.id
/-- Whether a run that asks for a granule now may read it: the run holds it, or it is full and no tile's reader waits there (R153, R154). -/
def State.granReady (s : State) (c : CSet) (g id : Nat) : Bool :=
  c.available g id && (decide (c.holder g = some id) || !s.tileWaits c.ref g s.nextId)

/-- Whether the bank may serve a request of its queue: it is not held, and it follows no held release of its own line on its granule,
nor, as a BARINIT, any held write to the granule, which was issued before the granule is marked (R159), nor, as a push, an earlier push of its
port, which are performed in position order (R184, R185), nor, as a barrier's step, a request of its line that waits on the granule (R154),
nor a packet of its line to the same bytes by the loopback path (R170).
(DEDUCED, assumption 15.) -/
def State.bankReady (s : State) (core bank : Nat) (q : BankReq) : Bool :=
  s.atBank core bank q && !q.held &&
  (q.port.isNone || (s.bankQ ++ s.waitQ).all fun p => !(decide (p.port = q.port) && decide (p.issuer = q.issuer) && decide (p.id < q.id))) &&
  !(q.isBar && s.behind q) && !s.loopMeets q.issuer (.spad q.set q.off) q.size q.id &&
  s.bankQ.all fun p => !(p.held && decide (p.id < q.id) && (decide (p.issuer = q.issuer) || decide (q.op = .barInit)) &&
    decide (p.set = q.set) && decide (p.off / 16 = q.off / 16))

/-- Whether requests stand before one that would enter a bank's queue now. An access that does not enter the queue as a request of its
own (a port's, an engine's, a network unit's) is made in the step in which nothing stands before it: entering the queue and being
served then are one step (R150). (DEDUCED, assumption 17.) -/
def State.bankBusy (s : State) (c : CSet) (off : Nat) : Bool :=
  s.bankQ.any (s.bankReady c.core (CSet.bankOf off))

/-- Whether requests stand in any bank's queue of a core: an operation of the drain path, which touches many banks, is made in one
step in which none does. -/
def State.coreBusy (s : State) (core : Nat) : Bool :=
  s.bankQ.any fun q => s.bankReady core (CSet.bankOf q.off) q

/-- What a bank has served to a waiting access of the line (R154). -/
def Line.granted (l : Line) (r : SetRef) (g : Nat) : Option Nat :=
  (l.grants.find? fun x => decide (x.1.set = r) && decide (x.1.gran = g)).map (·.2)

/-- The line has used what a bank served to it. -/
def Line.useGrant (l : Line) (r : SetRef) (g : Nat) : Line :=
  { l with grants := l.grants.filter fun x => !(decide (x.1.set = r) && decide (x.1.gran = g)) }

/-- `n` bytes at an offset of a granule's 16 bytes. -/
def granPart (v off n : Nat) : Nat := v / 2 ^ (8 * (off % 16)) % 2 ^ (8 * n)

/-- An access that waits for its granule takes its place among the granule's waiters (R154). -/
def State.enlist (s : State) (issuer : LineRef) (thread : Nat) (c : CSet) (off : Nat) (take : Bool) (val : Nat) (pc word : Word) : State :=
  { s with
    waitQ := s.waitQ ++ [{ set := c.ref, id := s.nextId, issuer, thread, off, size := 16, op := .ticket take, val, run := s.nextId, pc, word,
                           gal := decide (c.ref ≠ setOf issuer) }]
    nextId := s.nextId + 1 }

/-- Waiters of a granule go to the head of the bank's queue, to be served in the order in which they began waiting (R154). -/
def State.callWaiters (s : State) (mine : BankReq → Bool) : State :=
  { s with bankQ := s.waitQ.filter (fun q => mine q && !q.isBar) ++ s.bankQ, waitQ := s.waitQ.filter fun q => !mine q || q.isBar }

/-! ### The readers of tiles (R154, R155) -/

/-- Whether a reader has its place in the lists of its tile's granules. -/
def State.tileListed (s : State) (issuer : LineRef) : Bool :=
  (s.bankQ ++ s.waitQ).any fun q => decide (q.issuer = issuer) && decide (q.op = .tile)

/-- A tile's reader takes its place in the list of every granule of the tile. -/
def State.listTile (s : State) (issuer : LineRef) (set : SetRef) (gs : List Nat) : State :=
  if s.tileListed issuer then s
  else
    { s with
      waitQ := s.waitQ ++ gs.zipIdx.map fun g =>
        { set, id := s.nextId + g.2, issuer, thread := 0, off := g.1 * 16, size := 16, op := .tile, val := 0, run := 0, pc := 0, word := 0 }
      nextId := s.nextId + gs.length }

/-- Whether it is a reader's turn at every granule of its tile: nothing that began waiting before it waits there. -/
def State.tileTurn (s : State) (issuer : LineRef) (set : SetRef) (gs : List Nat) : Bool :=
  (s.bankQ ++ s.waitQ).all fun q => !(decide (q.set = set) && gs.contains (q.off / 16) && decide (q.issuer ≠ issuer) &&
    (match q.op with | .load .take .. | .load .keep .. | .ticket _ | .tile => true | _ => false) &&
    (s.bankQ ++ s.waitQ).all fun p => !(decide (p.issuer = issuer) && decide (p.op = .tile) && decide (p.off / 16 = q.off / 16) && decide (p.id < q.id)))

/-- A reader leaves the lists, and those behind it are called. -/
def State.leaveTile (s : State) (issuer : LineRef) : State :=
  let own (q : BankReq) : Bool := decide (q.issuer = issuer) && decide (q.op = .tile)
  let mine := (s.bankQ ++ s.waitQ).filter own
  let s := { s with bankQ := s.bankQ.filter fun q => !own q, waitQ := s.waitQ.filter fun q => !own q }
  s.callWaiters fun q => mine.any fun p => decide (p.set = q.set) && decide (p.off / 16 = q.off / 16)

/-- What banks have served to a line and it has not used is given back: the granules are full for every reader again. -/
def State.dropGrants (s : State) (l : Line) : State :=
  let t := l.grants.foldl (fun s x => s.updSet x.1.set fun c => { c with taken := c.taken.filter fun t => decide (t ≠ (x.1.gran, x.1.id)) }) s
  (t.updLine l.ref fun l => { l with grants := [] }).callWaiters fun q =>
    l.grants.any fun x => decide (x.1.set = q.set) && decide (x.1.gran = q.off / 16)

/-- A line's places in the lists of granules, and what banks have served to it there, are given up: its instruction starts anew, or not at all. -/
def State.dropWaits (s : State) (l : Line) : State :=
  let ticket (q : BankReq) : Bool := decide (q.issuer = l.ref) && (match q.op with | .ticket _ => true | _ => false)
  (({ s with bankQ := s.bankQ.filter fun q => !ticket q, waitQ := s.waitQ.filter fun q => !ticket q }).leaveTile l.ref).dropGrants l

/-- Whether an access already waits there. -/
def State.enlisted (s : State) (issuer : LineRef) (r : SetRef) (g : Nat) : Bool :=
  (s.bankQ ++ s.waitQ).any fun q => decide (q.issuer = issuer) && decide (q.set = r) && decide (q.off / 16 = g) &&
    (match q.op with | .ticket _ => true | _ => false)

/-- A read of a scratchpad or gallery element by thread j under a tag mode 0 .any, 1 .take, 2 .keep, for the run `id` (R80, R153, R154). -/
def State.readSpad (s : State) (l : Line) (j : Nat) (c : CSet) (off n tag id : Nat) : Rd :=
  let g := off / 16
  match (if tag = 0 then none else l.granted c.ref g) with
  | some v => if c.badGran.contains g then .fault 0x14 off else .val s (granPart v off n)
  | none =>
    if s.enlisted l.ref c.ref g then .wait s (.granule c.ref g 0)
    else if s.ownBank l.ref c.ref g then .wait s (.order c.ref g)
    else if s.bankBusy c off then .wait s (.bankRoom c.core (CSet.bankOf off))
    else if tag ≠ 0 ∧ !s.granReady c g id then .wait (s.enlist l.ref j c off (decide (tag = 1)) 0 l.pc 0) (.granule c.ref g 0)
    else if c.badGran.contains g then .fault 0x14 off
    else .val s (c.read off n)

/-- Whether an acquire of the line has not returned (R176). -/
def State.acquiring (s : State) (r : LineRef) : Bool :=
  (s.flight.any fun a => a.acq && (match a.issuer with | .line q _ => decide (q = r) | _ => false)) ||
  ((s.bankQ ++ s.waitQ).any fun q => decide (q.issuer = r) &&
    (match q.op with | .load _ _ _ acq => acq | .atomic _ _ _ _ _ acq => acq | _ => false)) ||
  (s.fab.waits.any fun w => w.acq && decide (w.issuer = r) && w.done.isNone)

/-- Whether a `.take` or `.keep` load of an earlier instruction of the line still waits for its granule: full/empty tags order what the
line reads later (R170, R177). (DEDUCED, assumption 61.) -/
def State.awaitsTag (s : State) (l : Line) : Bool :=
  (s.bankQ ++ s.waitQ).any fun q => decide (q.issuer = l.ref) && decide (q.ino ≠ l.issueNo) &&
    (match q.op with | .load .take .. => true | .load .keep .. => true | _ => false)

/-- Whether a load or an atomic of the line has to wait for what the line read before (R176, R177). -/
def State.readsHeld (s : State) (l : Line) : Bool := s.acquiring l.ref || s.awaitsTag l

/-! ### Ports (R74 to R81) -/

/-- Clears the granule that a port holds, when it holds one (R80). -/
def State.releaseHeld (s : State) (h : Option Run) : State :=
  match h with
  | none => s
  | some run => s.updSet run.set fun c => c.setEmpty run.gran

/-- A port's hold after a read that leaves its position at `pos`: kept while the next element lies in the held granule or is
padding, cleared at another granule or at the end (R80). -/
def State.afterRead (s : State) (c : CSet) (p : Port) : State × Port :=
  match p.held with
  | none => (s, p)
  | some run =>
    match descElem p.desc p.pos with
    | .pad => (s, p)
    | .ended => (s.releaseHeld p.held, { p with held := none })
    | .at_ a =>
      match s.spadElem c (descSpace p.desc) a with
      | some (m, off) => if m.ref = run.set ∧ off / 16 = run.gran then (s, p) else (s.releaseHeld p.held, { p with held := none })
      | none => (s.releaseHeld p.held, { p with held := none })

/-- A value extended from a port element to the operand (R75). -/
def portExtend (ty : Ty) (es v : Nat) : DWord :=
  if ty.sgn && decide (es < 2) then ((BitVec.ofNat (8 * 2 ^ es) v).signExtend 32).setWidth 64 else BitVec.ofNat 64 v

/-- What reading an operand comes to. -/
inductive Opnd where
  | ok (s : State) (l : Line) (v : DWord)
  | wait (s : State) (w : Wait)
  | trap (f : FaultInfo)

/-- The position after a pop, saturating (R78). -/
def popPos (pop : Bool) (pos : Nat) : Nat := if pop then min (pos + 1) (2 ^ 64 - 1) else pos

/-- A pop or a peek of port n by thread j (R76 to R81). -/
def readPort (s : State) (l : Line) (j n : Nat) (pop : Bool) : Opnd :=
  let p := l.port n
  match s.cset (setOf l.ref) with
  | none => .trap { cls := 0x06 }
  | some c =>
    match descElem p.desc p.pos with
    | .ended =>
      .ok s ((l.updPort n fun p => { p with pos := popPos pop p.pos }).setEnd n (l.end_ n ||| maskBit j)) 0
    | .pad =>
      let p' := { p with pos := popPos pop p.pos }
      let r := s.afterRead c p'
      .ok r.1 (l.updPort n fun _ => r.2) 0
    | .at_ a =>
      let bytes := 2 ^ descEsize p.desc
      if s.readsHeld l then .wait s .acquire
      else if descSpace p.desc = 0 then
        match s.readGlobal l (descOobz p.desc) a bytes with
        | .val s v => .ok s (l.updPort n fun p => { p with pos := popPos pop p.pos }) (portExtend l.ty (descEsize p.desc) v)
        | .wait s w => .wait s w
        | .fault cls va => .trap { cls, addr := va, port := some n, elem := p.pos }
      else
        match s.spadElem c (descSpace p.desc) a with
        | none =>
          if descOobz p.desc then .ok s (l.updPort n fun p => { p with pos := popPos pop p.pos }) 0
          else .trap { cls := 0x06, addr := (a % (2 ^ 64 : Nat)).toNat, port := some n, elem := p.pos }
        | some (m, off) =>
          let id := match p.held with | some run => run.id | none => s.nextId
          if descTag p.desc = 1 ∧ s.unconfirmed l.ref then .wait s .confirm
          else
            match s.readSpad l j m off bytes (descTag p.desc) id with
            | .wait s w => .wait s w
            | .fault cls _ => .trap { cls, addr := (a % (2 ^ 64 : Nat)).toNat, port := some n, elem := p.pos }
            | .val s v =>
              let l := if descTag p.desc = 0 then l else l.useGrant m.ref (off / 16)
              if descTag p.desc = 1 then
                let s := { s.updSet m.ref (fun c => c.take (off / 16) id) with nextId := s.nextId + 1 }
                let r := s.afterRead c { p with pos := popPos pop p.pos, held := some { set := m.ref, gran := off / 16, id } }
                .ok r.1 (l.updPort n fun _ => r.2) (portExtend l.ty (descEsize p.desc) v)
              else .ok s (l.updPort n fun p => { p with pos := popPos pop p.pos }) (portExtend l.ty (descEsize p.desc) v)

/-- A source operand of thread j: `isB` for field b, `own` what field a delivered to this thread (R83, R84). -/
def readSrc (s : State) (l : Line) (j : Nat) (dbl : Bool) (own : DWord) : Src → Opnd
  | .x n => .ok s l (if dbl then l.xd j n else (l.x j n).setWidth 64)
  | .k n => .ok s l (if dbl then l.kd n else (l.kr n).setWidth 64)
  | .pop n => readPort s l j n true
  | .peek n => readPort s l j n false
  | .tap n =>
    .ok s l (if l.cv then l.carry.getD n 0 else if n.val = 3 then own else
      (if dbl then l.seeds.getD n 0 else ((l.seeds.getD n 0).setWidth 32).setWidth 64))
  | .rsv _ => .ok s l 0

/-- The tap carry after a thread that read `a` and produced `r` (R83, R86). -/
def Line.withCarry (l : Line) (a r : DWord) : Line :=
  { l with carry := #v[r, a, if l.cv then l.carry.getD 2 0 else r, if l.cv then l.carry.getD 3 0 else a], cv := true }

/-! ### Stores of a line to a bank (R150, R159, R265) -/

/-- Enters a request into its bank's queue, when the queue of 16 entries has room (R150). (DEDUCED, assumption 17.) -/
def enterBank (s : State) (l : Line) (c : CSet) (q : BankReq) : TRes :=
  if 16 ≤ s.bankLoad c.core (CSet.bankOf q.off) then .wait s (.bankRoom c.core (CSet.bankOf q.off))
  else .ok { s with bankQ := s.bankQ ++ [{ q with id := s.nextId }], nextId := s.nextId + 1 } l

/-! ### Global stores and atomics of a line (R194, R196, R265, R267) -/

/-- Whether an operation has writes that are not performed. -/
def OpState.isOpen : OpState → Bool
  | .written _ => false
  | _ => true

/-- Whether a line's set is being pre-empted: it stops between two runs, never inside one (R56). -/
def State.stopping (s : State) (r : LineRef) : Bool := decide ((s.cset (setOf r)).map CSet.phase = some .stopping)

/-- Whether a drain operation that pre-emption or abandonment meets goes on to its end (R379): it waits on its tags before it starts. -/
def DrainOp.runs (o : DrainOp) : Bool := match o.state with | .started => true | .written _ => true | _ => false

/-- Staged operations of a set: its global stores and atomics, its copies' writes and its peer ones, not yet performed (R194). (DEDUCED,
assumption 27.) -/
def State.stagedOf (s : State) (r : SetRef) : Nat :=
  (s.flight.filter fun a => a.staged && decide (a.grid = r.grid) && decide (a.set = r.set)).length +
  (s.fab.waits.filter fun w => decide (setOf w.issuer = r) && decide (w.kind ≠ .load) && w.done.isNone).length

/-- Whether a set's writes are held by the ticket unit: deterministic mode, and an earlier set has not ended or has
unperformed operations (R194). -/
def State.heldByTicket (s : State) (r : SetRef) : Bool :=
  match s.grid r.grid with
  | none => false
  | some g => bit (g.pkt.getD 0 0) 7 && decide (r.set ≠ 0) &&
      (decide (g.next < r.set) ||
       s.lines.any (fun l => earlier l.ref && decide (l.status ≠ .ended)) ||
       g.images.any (fun im => decide (im.set.ref.set < r.set) && !im.lines.isEmpty) ||
       s.flight.any (fun a => decide (a.grid = r.grid) && decide (a.set < r.set) && decide (a.kind ≠ .load) &&
         (match a.phase with | .performed _ => false | _ => true)) ||
       s.fab.waits.any (fun w => decide (w.issuer.grid = r.grid) && decide (w.issuer.set < r.set) && decide (w.kind ≠ .load) && w.done.isNone) ||
       s.copyQ.any (fun o => earlier o.issuer && o.state.isOpen && decide (descSpace o.dst = 0)))
where earlier (i : LineRef) : Bool := decide (i.grid = r.grid) && decide (i.set < r.set)

/-- What a global store or atomic asks. -/
structure StoreReq where
  kind : AccKind
  va : Nat
  size : Nat
  val : Nat
  cmp : Nat := 0
  dst : Option Nat := none
  acq : Bool := false
  rel : Option Scope := none
  port : Option (Nat × Nat) := none

/-- Issues a global store or atomic of thread j: confirmed when its translation and checks pass; unconfirmed while a walk
runs, with the line as it stands kept for R197. -/
def storeGlobal (i : Instr) (s : State) (l : Line) (j : Nat) (q : StoreReq) : TRes :=
  let set := setOf l.ref
  let det := match s.grid set.grid with | some g => bit (g.pkt.getD 0 0) 7 | none => false
  let rph := match s.grid set.grid with | some g => fld (g.pkt.getD 0 0) 8 2 | none => 0
  let acc (place : Place) (phase : AccPhase) (check : List Line) (trans : List TabRef) (s : State) : State :=
    { s with
      flight := s.flight ++ [{
        set := set.set, id := s.nextId, issuer := .line l.ref j, part := l.part, grid := set.grid,
        core := l.core, kind := q.kind, phase, va := q.va, place, size := q.size, val := q.val, cmp := q.cmp, dst := q.dst,
        sx := false, acq := q.acq, rel := q.rel, staged := det, prov := s.unconfirmed l.ref, ino := l.issueNo, pc := l.pc, word := iword i, check, trans,
        failed := none, port := q.port }]
      nextId := s.nextId + 1 }
  let l' := match q.dst with | some d => if d = 0 then l else { l with pend := l.pend ++ (regs (decide (q.size = 8)) d).map fun n => (j, n) } | none => l
  if s.acquiring l.ref || (decide (q.kind ≠ .store) && s.awaitsTag l) then .wait s .acquire
  else if det && decide (4096 ≤ s.stagedOf set) then .wait s .stageRoom
  else
    match s.translate (some l.core) (coreDie l.core) l.part false q.va true l.user with
    | .miss =>
      let w := s.startWalk (some l.core) (coreDie l.core) l.part false q.va true l.user
      .ok (acc (.dev 0) (.unconfirmed w.1) [{ l with tri := j }] [] w.2) l'
    | .fault c => .trap { cls := c, addr := q.va }
    | .hit (.dev ca) t =>
      if (s.part l.part).regionRefuses ca 1 l.gtag (some rph) then .trap { cls := 0x09, addr := q.va }
      else .ok (acc (.dev ca) .sent [] t s) l'
    | .hit (.host a) t => .ok (acc (.host a) .sent [] t s) l'
    | .hit (.spad ..) _ => .trap { cls := 0x08, addr := q.va }

/-! ### Pushes (R76 to R79, R159) -/

/-- A BARINIT of another line that the bank has not served: its mark decides whether a write may go on (R159). (DEDUCED, assumption 15.) -/
def State.barPending (s : State) (r : SetRef) (g : Nat) : Bool :=
  s.bankQ.any fun q => decide (q.op = .barInit) && decide (q.set = r) && decide (q.off / 16 = g)

/-- The push of a value to port n by thread j (R77, R78): a dropped element advances the position too. (DESIGN CHOICE, assumption 68.) -/
def pushPort (i : Instr) (s : State) (l : Line) (j n : Nat) (v : DWord) : TRes :=
  let p := l.port n
  let step (l : Line) : Line := l.updPort n fun p => { p with pos := popPos true p.pos }
  match s.cset (setOf l.ref) with
  | none => .trap { cls := 0x06 }
  | some c =>
    match descElem p.desc p.pos with
    | .ended => .ok s ((step l).setEnd n (l.end_ n ||| maskBit j))
    | .pad => .ok s (step l)
    | .at_ a =>
      let bytes := 2 ^ descEsize p.desc
      let data := v.toNat % 2 ^ (8 * bytes)
      if descSpace p.desc = 0 then
        let va := (a % (2 ^ 64 : Nat)).toNat
        if 2 ^ 57 ≤ va then .trap { cls := 0x04, addr := va, port := some n, elem := p.pos }
        else
          match storeGlobal i s l j { kind := .store, va, size := bytes, val := data, port := some (n, p.pos) } with
          | .ok s' l' => .ok s' (step l')
          | .wait s w => .wait s w
          | .trap f => .trap { f with port := some n, elem := p.pos }
          | .done s => .done s
      else
        match s.spadElem c (descSpace p.desc) a with
        | none => .trap { cls := 0x06, addr := (a % (2 ^ 64 : Nat)).toNat, port := some n, elem := p.pos }
        | some (m, off) =>
          if s.acquiring l.ref then .wait s .acquire
          else if s.barPending m.ref (off / 16) then .wait s (.order m.ref (off / 16))
          else if m.isMark (off / 16) then .trap { cls := 0x0A, addr := a.toNat, port := some n, elem := p.pos }
          else if s.unconfirmed l.ref then .wait s .confirm
          else
            match enterBank s l m {
                set := m.ref, id := 0, issuer := l.ref, thread := j, off, size := bytes,
                op := .store (decide (descTag p.desc = 3)) none, val := data, run := 0, pc := l.pc, word := iword i,
                gal := decide (descSpace p.desc = 2), port := some n } with
            | .ok s' l' => .ok s' (step l')
            | r => r

/-- Writes a result to its destination: an x register or pair, or a push (R76 item 3). -/
def writeDst (i : Instr) (s : State) (l : Line) (j : Nat) (dbl : Bool) (d : Fld) (v : DWord) : TRes :=
  match d with
  | .q n => pushPort i s l j n v
  | _ => .ok s (if dbl then l.setXd j d.num v else l.setX j d.num (v.setWidth 32))

/-- A result of a thread: its value, and the exceptions that it raises. -/
structure Res where
  v : DWord
  fl : Flags := 0
  dr : Bool := false

/-- What a thread produces for a tap: the element, where a narrower one is pushed (R75, R83, R227). -/
def Line.tapped (l : Line) (d : Fld) (r : Res) : Res :=
  match d with
  | .q n => { r with v := BitVec.ofNat 64 (r.v.toNat % 2 ^ (8 * 2 ^ descEsize (l.port n).desc)) }
  | _ => r

/-- A thread that has to wait after an operand was read has had no effect (R55): only the walk that it began and its place among a
granule's waiters stay. -/
def State.keepWalks (s w : State) : State := { s with walks := w.walks, waitQ := w.waitQ, nextId := w.nextId }

/-- A push whose translation is still open travels as provisional: should it fault, the line stands as before its thread (R196, R197).
A thread that has consumed a granule waits for it instead. `s` and `l` stood before the thread. -/
def settlePush (s s3 : State) (l l3 : Line) (j : Nat) : TRes :=
  let made := s3.flight.drop s.flight.length
  match made.find? fun a => match a.phase with | .unconfirmed _ => true | _ => false with
  | none => .ok s3 l3
  | some a =>
    if s3.sets = s.sets then
      .ok { s3 with flight := s3.flight.take s.flight.length ++ made.map fun b => { b with check := [{ l with tri := j }] } } l3
    else .wait (s.keepWalks s3) (match a.phase with | .unconfirmed w => .walk w | _ => .confirm)

/-- One thread of a compute instruction: operands ready and read in order a, b; the result; exceptions (R66); the write;
the tap carry, for a push the element pushed (R83). `third` gives registers that are also read. A result of fewer than 64 bits stands in the carry
with zeros above, which a 64-bit operand reads through e0 or e2. (DESIGN CHOICE, assumption 100.) -/
def computeThread (da db dd : Bool) (a b : Src) (third : List Nat)
    (write : State → Line → Nat → DWord → TRes) (f : Line → Nat → DWord → DWord → Res) (s : State) (l : Line) (j : Nat) : TRes :=
  ready s l j (a.xregs da ++ b.xregs db ++ third) (a.kregs da ++ b.kregs db) <|
    match readSrc s l j da 0 a with
    | .wait s w => .wait s w
    | .trap t => .trap t
    | .ok s1 l1 va =>
      match readSrc s1 l1 j db va b with
      | .wait t w => .wait (s.keepWalks t) w
      | .trap t => .trap t
      | .ok s2 l2 vb =>
        let r := f l2 j va vb
        match raise (l2.fpst j) r.fl with
        | .error m => .trap { cls := 0x1E, code := m }
        | .ok st =>
          match write s2 (if r.dr then (l2.setFpst j st).setDr else l2.setFpst j st) j r.v with
          | .ok s3 l3 => settlePush s s3 l (l3.withCarry (if da then va else (va.setWidth 32).setWidth 64) (if dd then r.v else (r.v.setWidth 32).setWidth 64)) j
          | .wait t w => .wait (s.keepWalks t) w
          | .trap t => .trap t
          | .done s => .done s

/-- A two-source compute instruction with a register or push destination (R227). The operands are checked at the width of lmode.TYPE,
also for an instruction that a 64-bit TYPE makes illegal: step 4 of R211 comes before step 5. (DEDUCED, assumption 72.) -/
def compute2 (i : Instr) (d : Fld) (a b : Src) (types : Line → Bool) (f : Line → Nat → DWord → DWord → Res) (s : State) : Out :=
  perThread i (fun l => l.okDst l.ty.dbl d && l.okSrc false l.ty.dbl a && l.okSrc true l.ty.dbl b) types
    (fun s l j => computeThread l.ty.dbl l.ty.dbl l.ty.dbl a b (d.xregs l.ty.dbl)
      (fun s l j v => writeDst i s l j l.ty.dbl d v) (fun l j x y => l.tapped d (f l j x y)) s l j) s

/-- A two-source compute instruction that writes a predicate (R236, R244). -/
def computeP (i : Instr) (d : Fld) (a b : Src) (types : Line → Bool) (f : Line → Nat → DWord → DWord → Res) (s : State) : Out :=
  perThread i (fun l => okPred d && l.okSrc false l.ty.dbl a && l.okSrc true l.ty.dbl b) types
    (fun s l j => computeThread l.ty.dbl l.ty.dbl false a b []
      (fun s l j v => .ok s (l.setP j d.num (decide (v ≠ 0)))) f s l j) s

end Sys2Proof.Machine
end

