-- ==== Sys2Proof/Machine/Int.lean ====
section
/-!
DEFINITION. Meanings of INT, LOGIC, ICMP, SEL, the immediate forms, MODE, KALU and MOVE (R231 to R238, R254 to R256).
-/
namespace Sys2Proof.Machine

/-! ### Integer operands and results (R224) -/

/-- The value of an operand under an integer type: its low n bits, signed or unsigned. -/
def intVal (ty : Ty) (v : DWord) : Int :=
  let u := v.toNat % 2 ^ ty.bits
  if ty.sgn && decide (2 ^ (ty.bits - 1) ≤ u) then (u : Int) - (2 ^ ty.bits : Nat) else u

/-- An integer written under a type: n bits, extended to the operand width; a 32-bit result lies in the low word. -/
def intPut (ty : Ty) (r : Int) : DWord :=
  if ty.dbl then BitVec.ofInt 64 r else (BitVec.ofInt 32 r).setWidth 64

def intTypes (l : Line) : Bool := l.ty.isInt

/-- A two-operand integer operation on exact values (R231). -/
def intOp (g : Line → Int → Int → Int) (l : Line) (_ : Nat) (a b : DWord) : Res :=
  { v := intPut l.ty (g l (intVal l.ty a) (intVal l.ty b)) }

/-- int_result at the line's type and ISAT (R102, R231). -/
def Line.intResult (l : Line) (v : Int) : Int := Machine.intResult l.isat v l.ty.bits l.ty.sgn

/-- Field b of an instruction that leaves it unused. -/
def noB : Src := .x 0

def execAdd (d : Fld) (a b : Src) (s : State) : Out :=
  compute2 (.add d a b) d a b intTypes (intOp fun l x y => l.intResult (x + y)) s
def execSub (d : Fld) (a b : Src) (s : State) : Out :=
  compute2 (.sub d a b) d a b intTypes (intOp fun l x y => l.intResult (x - y)) s
def execMul (d : Fld) (a b : Src) (s : State) : Out :=
  compute2 (.mul d a b) d a b intTypes (intOp fun l x y => l.intResult (x * y)) s
/-- MULHI: the high n bits of the exact product (R231). -/
def execMulhi (d : Fld) (a b : Src) (s : State) : Out :=
  compute2 (.mulhi d a b) d a b intTypes (intOp fun l x y => (x * y) / (2 ^ l.ty.bits : Nat)) s
def execMin (d : Fld) (a b : Src) (s : State) : Out :=
  compute2 (.min d a b) d a b intTypes (intOp fun _ x y => if x ≤ y then x else y) s
def execMax (d : Fld) (a b : Src) (s : State) : Out :=
  compute2 (.max d a b) d a b intTypes (intOp fun _ x y => if x ≤ y then y else x) s
def execAbs (d : Fld) (a : Src) (s : State) : Out :=
  compute2 (.abs d a) d a noB intTypes (intOp fun l x _ => l.intResult x.natAbs) s
def execSad (d : Fld) (a b : Src) (s : State) : Out :=
  compute2 (.sad d a b) d a b intTypes (intOp fun l x y => l.intResult (x - y).natAbs) s

/-! ### LOGIC (R225, R235) -/

/-- The type under which LOGIC reads its operands: floating-point types as the unsigned type of their width. -/
def logicTy : Ty → Ty
  | .f16 | .bf16 => .n16
  | .f32 => .n32
  | .f64 => .n64
  | t => t
def logicTypes (l : Line) : Bool := l.ty.isInt || l.ty.isArith

/-- The n-bit pattern of an operand. -/
def pat (ty : Ty) (v : DWord) : Nat := v.toNat % 2 ^ ty.bits
/-- An n-bit pattern written under a type (R224). -/
def patPut (ty : Ty) (u : Nat) : DWord := intPut ty (intVal ty (BitVec.ofNat 64 u))

/-- A bitwise operation on patterns. -/
def logicOp (g : Nat → Nat → Nat → Nat) (l : Line) (_ : Nat) (a b : DWord) : Res :=
  let t := logicTy l.ty
  { v := patPut t (g t.bits (pat t a) (pat t b) % 2 ^ t.bits) }

/-- The complement of an n-bit pattern. -/
def notN (n x : Nat) : Nat := 2 ^ n - 1 - x

def execAnd (d : Fld) (a b : Src) (s : State) : Out :=
  compute2 (.and d a b) d a b logicTypes (logicOp fun _ x y => x &&& y) s
def execOr (d : Fld) (a b : Src) (s : State) : Out :=
  compute2 (.or d a b) d a b logicTypes (logicOp fun _ x y => x ||| y) s
def execXor (d : Fld) (a b : Src) (s : State) : Out :=
  compute2 (.xor d a b) d a b logicTypes (logicOp fun _ x y => x ^^^ y) s
def execAndn (d : Fld) (a b : Src) (s : State) : Out :=
  compute2 (.andn d a b) d a b logicTypes (logicOp fun n x y => x &&& notN n y) s
def execOrn (d : Fld) (a b : Src) (s : State) : Out :=
  compute2 (.orn d a b) d a b logicTypes (logicOp fun n x y => x ||| notN n y) s
def execXnor (d : Fld) (a b : Src) (s : State) : Out :=
  compute2 (.xnor d a b) d a b logicTypes (logicOp fun n x y => notN n (x ^^^ y)) s

/-- A shift: field b is one 32-bit register or a port element of at most 4 bytes, whatever the type (R226, R235). -/
def computeShift (i : Instr) (d : Fld) (a b : Src) (g : Ty → Nat → Nat → Nat) (s : State) : Out :=
  perThread i (fun l => l.okDst l.ty.dbl d && l.okSrc false l.ty.dbl a && l.okSrc true false b) logicTypes
    (fun s l j => computeThread l.ty.dbl false l.ty.dbl a b (d.xregs l.ty.dbl)
      (fun s l j v => writeDst i s l j l.ty.dbl d v)
      (fun l _ va vb => l.tapped d { v := patPut (logicTy l.ty) (g (logicTy l.ty) (pat (logicTy l.ty) va) (vb.toNat % 2 ^ 32)) }) s l j) s

/-- SHL of an n-bit pattern; 0 when the amount reaches n. -/
def shlN (n x sh : Nat) : Nat := if n ≤ sh then 0 else x * 2 ^ sh % 2 ^ n
def shrN (n x sh : Nat) : Nat := if n ≤ sh then 0 else x / 2 ^ sh
/-- SRA of an n-bit pattern; copies of the top bit when the amount reaches n. -/
def sraN (n x sh : Nat) : Nat := ((BitVec.ofNat n x).sshiftRight (if n ≤ sh then n else sh)).toNat
def rotlN (n x sh : Nat) : Nat := ((BitVec.ofNat n x).rotateLeft (sh % n)).toNat

def execShl (d : Fld) (a b : Src) (s : State) : Out := computeShift (.shl d a b) d a b (fun t x sh => shlN t.bits x sh) s
def execShr (d : Fld) (a b : Src) (s : State) : Out := computeShift (.shr d a b) d a b (fun t x sh => shrN t.bits x sh) s
def execSra (d : Fld) (a b : Src) (s : State) : Out := computeShift (.sra d a b) d a b (fun t x sh => sraN t.bits x sh) s
def execRotl (d : Fld) (a b : Src) (s : State) : Out := computeShift (.rotl d a b) d a b (fun t x sh => rotlN t.bits x sh) s

/-- The 1-bits, the leading zeros and the reversal of an n-bit pattern. -/
def popN (n x : Nat) : Nat := (List.range n).countP fun i => x.testBit i
def clzN (n x : Nat) : Nat := if x = 0 then n else n - 1 - Nat.log2 x
def brevN (n x : Nat) : Nat := (BitVec.ofNat n x).reverse.toNat

def execPopc (d : Fld) (a : Src) (s : State) : Out :=
  compute2 (.popc d a) d a noB logicTypes (logicOp fun n x _ => popN n x) s
def execClz (d : Fld) (a : Src) (s : State) : Out :=
  compute2 (.clz d a) d a noB logicTypes (logicOp fun n x _ => clzN n x) s
def execBrev (d : Fld) (a : Src) (s : State) : Out :=
  compute2 (.brev d a) d a noB logicTypes (logicOp fun n x _ => brevN n x) s

/-! ### ICMP and SEL (R236, R237) -/

def cmpHolds (c : Cmp) (x y : Int) : Bool :=
  match c with
  | .eq => decide (x = y) | .ne => decide (x ≠ y) | .lt => decide (x < y) | .le => decide (x ≤ y)
  | .gt => decide (y < x) | .ge => decide (y ≤ x)

def boolD (b : Bool) : DWord := if b then 1 else 0

def execIcmp (c : Cmp) (d : Fld) (a b : Src) (s : State) : Out :=
  computeP (.icmp c d a b) d a b intTypes
    (fun l _ va vb => { v := boolD (cmpHolds c (intVal l.ty va) (intVal l.ty vb)) }) s

def execSel (inv : Bool) (p : Fin 8) (d : Fld) (a b : Src) (s : State) : Out :=
  compute2 (.sel inv p d a b) d a b anyTy (fun l j va vb => { v := if l.p j p != inv then va else vb }) s

/-! ### Immediates (R232, R233) -/

/-- A format I operation on 32-bit words. -/
def computeI (i : Instr) (d a : Fld) (g : Word → Word) (s : State) : Out :=
  perThread i (fun l => l.okDst false d && l.okSrc false false a.toSrc) anyTy
    (fun s l j => computeThread false false false a.toSrc noB (d.xregs false) (fun s l j v => writeDst i s l j false d v)
      (fun l _ va _ => l.tapped d { v := (g (va.setWidth 32)).setWidth 64 }) s l j) s

def execAddi (d a : Fld) (imm : BitVec 14) (s : State) : Out := computeI (.addi d a imm) d a (· + imm.signExtend 32) s
def execAndi (d a : Fld) (imm : BitVec 14) (s : State) : Out := computeI (.andi d a imm) d a (· &&& imm.setWidth 32) s
def execOri (d a : Fld) (imm : BitVec 14) (s : State) : Out := computeI (.ori d a imm) d a (· ||| imm.setWidth 32) s
def execXori (d a : Fld) (imm : BitVec 14) (s : State) : Out := computeI (.xori d a imm) d a (· ^^^ imm.setWidth 32) s
def execShli (d a : Fld) (n : Fin 64) (s : State) : Out := computeI (.shli d a n) d a (· <<< n.val) s
def execShri (d a : Fld) (n : Fin 64) (s : State) : Out := computeI (.shri d a n) d a (· >>> n.val) s
def execSrai (d a : Fld) (n : Fin 64) (s : State) : Out := computeI (.srai d a n) d a (fun w => w.sshiftRight n.val) s

/-- LUI: per-thread, x(d) ← imm20 << 12. -/
def execLui (d : Fld) (imm : BitVec 20) (s : State) : Out :=
  perThread (.lui d imm) (fun l => l.okXf false d) anyTy
    (fun s l j => ready s l j (d.xregs false) [] (.ok s (l.setX j d.num (imm.setWidth 32 <<< 12)))) s

/-- A line-uniform instruction that writes one k register from k registers. -/
def uniformK (i : Instr) (operands : Line → Bool) (d : Fld) (ks : List Nat) (g : State → Line → Word) (s : State) : Out :=
  uniform i operands anyTy
    (fun s l => match l.pendingK (d.num :: ks) with
      | some n => .wait s (.kreg n)
      | none => .ok s (l.setK d.num (g s l))) s

def execLuik (d : Fld) (imm : BitVec 20) (s : State) : Out :=
  uniformK (.luik d imm) (fun l => l.okKf false d) d [] (fun _ _ => imm.setWidth 32 <<< 12) s
def execAddki (d a : Fld) (imm : BitVec 14) (s : State) : Out :=
  uniformK (.addki d a imm) (fun l => l.okKf false d && l.okKf false a) d [a.num]
    (fun _ l => l.kr a.num + imm.signExtend 32) s

/-- MODE writes lmode bits [19:0], unless a field of the immediate holds a value that the map does not assign (R62, R234).
The decoder refuses such an immediate; the check stands here for an instruction built without it. -/
def execMode (imm : BitVec 16) (s : State) : Out :=
  uniform (.mode imm) anyTy (fun _ => modeOk imm.toNat)
    (fun s l => .ok s { l with lmode := (l.lmode &&& 0xFFF00000) ||| imm.setWidth 32 }) s

/-! ### KALU (R238) -/

/-- A KALU operation. -/
def kalu (i : Instr) (d a b : Fld) (g : Word → Word → Word) (s : State) : Out :=
  uniformK i (fun l => l.okKf false d && l.okKf false a && l.okKf false b) d [a.num, b.num]
    (fun _ l => g (l.kr a.num) (l.kr b.num)) s

def execKadd (d a b : Fld) (s : State) : Out := kalu (.kadd d a b) d a b (· + ·) s
def execKsub (d a b : Fld) (s : State) : Out := kalu (.ksub d a b) d a b (· - ·) s
def execKmul (d a b : Fld) (s : State) : Out := kalu (.kmul d a b) d a b (· * ·) s
def execKand (d a b : Fld) (s : State) : Out := kalu (.kand d a b) d a b (· &&& ·) s
def execKor (d a b : Fld) (s : State) : Out := kalu (.kor d a b) d a b (· ||| ·) s
def execKxor (d a b : Fld) (s : State) : Out := kalu (.kxor d a b) d a b (· ^^^ ·) s
/-- A 32-bit shift by an amount that may reach or pass 32. -/
def kshlW (a b : Word) : Word := if 32 ≤ b.toNat then 0 else a <<< b.toNat
def kshrW (a b : Word) : Word := if 32 ≤ b.toNat then 0 else a >>> b.toNat
def ksraW (a b : Word) : Word := a.sshiftRight (if 32 ≤ b.toNat then 32 else b.toNat)
def execKshl (d a b : Fld) (s : State) : Out := kalu (.kshl d a b) d a b kshlW s
def execKshr (d a b : Fld) (s : State) : Out := kalu (.kshr d a b) d a b kshrW s
def execKsra (d a b : Fld) (s : State) : Out := kalu (.ksra d a b) d a b ksraW s
def execKmin (d a b : Fld) (s : State) : Out := kalu (.kmin d a b) d a b (fun x y => if x.toInt ≤ y.toInt then x else y) s
def execKmax (d a b : Fld) (s : State) : Out := kalu (.kmax d a b) d a b (fun x y => if x.toInt ≤ y.toInt then y else x) s

/-! ### MOVE and XSEED (R254 to R256) -/

def execMov (d : Fld) (a : Src) (s : State) : Out :=
  compute2 (.mov d a) d a noB anyTy (fun _ _ va _ => { v := va }) s

/-- A per-thread move into x(d) of a word of the thread. -/
def moveX (i : Instr) (operands : Line → Bool) (d : Fld) (ks : List Nat) (g : State → Line → Nat → Word) (s : State) : Out :=
  perThread i (fun l => l.okXf false d && operands l) anyTy
    (fun s l j => ready s l j (d.xregs false) ks (.ok s (l.setX j d.num (g s l j)))) s

def execMovxk (d a : Fld) (s : State) : Out :=
  moveX (.movxk d a) (fun l => l.okKf false a) d [a.num] (fun _ l _ => l.kr a.num) s

/-- The lowest thread of the active mask. -/
def Line.lowest (l : Line) : Nat := (((List.range l.width).filter l.isActive).head?).getD 0

def execMovkx (d a : Fld) (s : State) : Out :=
  uniform (.movkx d a) (fun l => l.okKf false d && l.okXf false a) anyTy
    (fun s l => ready s l l.lowest (a.xregs false) [d.num] (.ok s (l.setK d.num (l.x l.lowest a.num)))) s

def execRdfp (d : Fld) (s : State) : Out := moveX (.rdfp d) anyTy d [] (fun _ l j => l.fpst j) s

def execWrfp (a : Fld) (s : State) : Out :=
  perThread (.wrfp a) (fun l => l.okXf false a) anyTy
    (fun s l j => ready s l j (a.xregs false) [] (.ok s (l.setFpst j (fpstWrite (l.fpst j) (l.x j a.num))))) s

/-- Whether a matrix operation of the line has still to update kstat (R229, R294). -/
def State.matrixBusy (s : State) (r : LineRef) : Bool :=
  s.runs.any (fun m => decide (m.issuer = r) || (decide (setOf r = m.set) && m.members.contains r.line)) ||
  s.drainQ.any (fun o => decide (o.issuer = r))

def execRdks (d : Fld) (s : State) : Out :=
  uniform (.rdks d) (fun l => l.okKf false d) anyTy
    (fun s l => if s.matrixBusy l.ref then .wait s .matrix
      else match l.pendingK [d.num] with
        | some n => .wait s (.kreg n)
        | none => .ok s (l.setK d.num l.kstatWord)) s

def execWrks (a : Fld) (s : State) : Out :=
  uniform (.wrks a) (fun l => l.okKf false a) anyTy
    (fun s l => if s.matrixBusy l.ref then .wait s .matrix
      else match l.pendingK [a.num] with
        | some n => .wait s (.kreg n)
        | none => .ok s { l with kstat := kstatWrite l.kstat (l.kr a.num) }) s

def execRdlm (d : Fld) (s : State) : Out := uniformK (.rdlm d) (fun l => l.okKf false d) d [] (fun _ l => l.lmode) s

def execP2x (d : Fld) (s : State) : Out := moveX (.p2x d) anyTy d [] (fun _ l j => ((l.thread j).p ||| 1).setWidth 32) s

def execX2p (a : Fld) (s : State) : Out :=
  perThread (.x2p a) (fun l => l.okXf false a) anyTy
    (fun s l j => ready s l j (a.xregs false) []
      (.ok s (l.updThread j fun t => { t with p := ((l.x j a.num).setWidth 8) ||| 1 }))) s

/-- What RDTID reads (R255). -/
def tidValue (sel : TidSel) (s : State) (l : Line) (j : Nat) : Word :=
  match sel with
  | .thread => BitVec.ofNat 32 j
  | .line => BitVec.ofNat 32 l.ref.line
  | .set => BitVec.ofNat 32 l.ref.set
  | .hall => match s.cset (setOf l.ref) with | some c => BitVec.ofNat 32 (l.ref.set - c.hall) | none => 0

def execRdtid (sel : TidSel) (d : Fld) (s : State) : Out := moveX (.rdtid sel d) anyTy d [] (tidValue sel) s

/-- RDTIME: d may not be k0, and d + 1 must be declared (R256). -/
def execRdtime (d : Fld) (s : State) : Out :=
  uniform (.rdtime d) (fun l => l.okK2 d && decide (d.num ≠ 0)) anyTy
    (fun s l => match l.pendingK [d.num, d.num + 1] with
      | some n => .wait s (.kreg n)
      | none =>
        .ok s ((l.setK d.num (BitVec.ofNat 32 s.time)).setK (d.num + 1) (BitVec.ofNat 32 (s.time / 2 ^ 32)))) s

def execXseed (e : Fin 4) (a b : Fld) (s : State) : Out :=
  uniform (.xseed e a b) (fun l => l.okKf false a && l.okKf false b) anyTy
    (fun s l => match l.pendingK [a.num, b.num] with
      | some n => .wait s (.kreg n)
      | none => .ok s { l with seeds := l.seeds.setIfInBounds e.val (l.kr b.num ++ l.kr a.num) }) s

end Sys2Proof.Machine
end

