-- ==== Sys2Proof/Machine/Sfu.lean ====
section
/-!
DEFINITION. The special functions RCP, RSQRT, EXP2, LOG2, SIN and COS (R111 to R117): their tables, generated by the
expressions that the rules state, and their integer procedures.
-/
namespace Sys2Proof.Machine

/-- The nearest integer to n / d. -/
def nearest (n d : Nat) : Nat := (2 * n + d) / (2 * d)

/-- Tb of R114: the nearest integers to 2^31 / sqrt(c), c as R114 states for i = 0 to 127. -/
def tbTable : List Nat :=
  [2139143874, 2122751726, 2106730729, 2091067086, 2075747707, 2060760163, 2046092644, 2031733922] ++
  [2017673311, 2003900636, 1990406202, 1977180765, 1964215505, 1951502003, 1939032214, 1926798450] ++
  [1914793358, 1903009903, 1891441346, 1880081235, 1868923385, 1857961863, 1847190978, 1836605270] ++
  [1826199490, 1815968600, 1805907755, 1796012296, 1786277740, 1776699774, 1767274245, 1757997150] ++
  [1748864636, 1739872984, 1731018611, 1722298059, 1713707990, 1705245183, 1696906526, 1688689013] ++
  [1680589738, 1672605894, 1664734763, 1656973720, 1649320221, 1641771805, 1634326089, 1626980766] ++
  [1619733600, 1612582423, 1605525136, 1598559701, 1591684144, 1584896547, 1578195052, 1571577853] ++
  [1565043197, 1558589383, 1552214758, 1545917715, 1539696693, 1533550174, 1527476684, 1521474788] ++
  [1512603139, 1501012140, 1489683584, 1478607716, 1467775280, 1457177486, 1446805984, 1436652834] ++
  [1426710480, 1416971728, 1407429723, 1398077927, 1388910104, 1379920300, 1371102827, 1362452250] ++
  [1353963368, 1345631207, 1337451002, 1329418191, 1321528399, 1313777432, 1306161267, 1298676040] ++
  [1291318043, 1284083712, 1276969620, 1269972473, 1263089103, 1256316458, 1249651603, 1243091706] ++
  [1236634043, 1230275986, 1224014999, 1217848637, 1211774541, 1205790433, 1199894112, 1194083452] ++
  [1188356400, 1182710970, 1177145240, 1171657354, 1166245512, 1160907976, 1155643060, 1150449133] ++
  [1145324612, 1140267967, 1135277711, 1130352405, 1125490652, 1120691096, 1115952423, 1111273357] ++
  [1106652658, 1102089122, 1097581581, 1093128899, 1088729972, 1084383727, 1080089122, 1075845140]
/-- Te of R115: the nearest integers to 2^30 × 2^(j/64), j = 0 to 63. -/
def teTable : List Nat :=
  [1073741824, 1085434106, 1097253708, 1109202018, 1121280436, 1133490379, 1145833280, 1158310587] ++
  [1170923762, 1183674286, 1196563654, 1209593378, 1222764986, 1236080024, 1249540052, 1263146652] ++
  [1276901417, 1290805962, 1304861917, 1319070932, 1333434672, 1347954824, 1362633090, 1377471191] ++
  [1392470869, 1407633882, 1422962010, 1438457051, 1454120821, 1469955159, 1485961921, 1502142985] ++
  [1518500250, 1535035634, 1551751076, 1568648537, 1585730000, 1602997467, 1620452965, 1638098541] ++
  [1655936265, 1673968228, 1692196547, 1710623359, 1729250827, 1748081133, 1767116489, 1786359126] ++
  [1805811301, 1825475297, 1845353420, 1865448001, 1885761398, 1906295993, 1927054196, 1948038440] ++
  [1969251188, 1990694927, 2012372174, 2034285470, 2056437387, 2078830522, 2101467502, 2124350982]
/-- Tl of R116: the nearest integers to 2^30 × log2(2^30 / Y[j]), j = 0 to 63. -/
def tlTable : List Nat :=
  [0, 24017256, 47667823, 70962728, 93912511, 116527249, 138816582, 160789745] ++
  [182455581, 203822568, 224898838, 245692198, 266210141, 286459867, 306448298, 326182095] ++
  [345667660, 364911161, 383918542, 402695523, 421247625, 439580171, 457698295, 475606957] ++
  [493310944, 510814882, 528123240, 545240343, 562170370, 578917365, 595485245, 611877800] ++
  [628098702, 644151509, 660039670, 675766524, 691335320, 706749198, 722011214, 737124328] ++
  [752091421, 766915285, 781598637, 796144115, 810554284, 824831638, 838978603, 852997541] ++
  [866890746, 880660456, 894308842, 907838030, 921250079, 934547002, 947730758, 960803258] ++
  [973766363, 986621888, 999371608, 1012017244, 1024560485, 1037002979, 1049346326, 1061592099]
/-- Ts of R117: the nearest integers to 2^36 × sin(2πj/256), j = 0 to 63. -/
def tsTable : List Nat :=
  [0, 1686460383, 3371904904, 5055318317, 6735686595, 8411997547, 10083241426, 11748411537] ++
  [13406504845, 15056522576, 16697470820, 18328361132, 19948211125, 21556045062, 23150894443, 24731798591] ++
  [26297805228, 27847971050, 29381362296, 30897055308, 32394137090, 33871705854, 35328871569, 36764756494] ++
  [38178495703, 39569237615, 40936144497, 42278392976, 43595174533, 44885695986, 46149179974, 47384865423] ++
  [48592008000, 49769880568, 50917773621, 52034995712, 53120873867, 54174753993, 55196001274, 56184000547] ++
  [57138156679, 58057894923, 58942661261, 59791922744, 60605167808, 61381906586, 62121671198, 62824016039] ++
  [63488518041, 64114776934, 64702415483, 65251079716, 65760439139, 66230186932, 66660040137, 67049739826] ++
  [67399051260, 67707764025, 67975692164, 68202674289, 68388573673, 68533278337, 68636701117, 68698779714]
/-- Tc of R117: the nearest integers to 2^36 × cos(2πj/256), j = 0 to 63. -/
def tcTable : List Nat :=
  [68719476736, 68698779714, 68636701117, 68533278337, 68388573673, 68202674289, 67975692164, 67707764025] ++
  [67399051260, 67049739826, 66660040137, 66230186932, 65760439139, 65251079716, 64702415483, 64114776934] ++
  [63488518041, 62824016039, 62121671198, 61381906586, 60605167808, 59791922744, 58942661261, 58057894923] ++
  [57138156679, 56184000547, 55196001274, 54174753993, 53120873867, 52034995712, 50917773621, 49769880568] ++
  [48592008000, 47384865423, 46149179974, 44885695986, 43595174533, 42278392976, 40936144497, 39569237615] ++
  [38178495703, 36764756494, 35328871569, 33871705854, 32394137090, 30897055308, 29381362296, 27847971050] ++
  [26297805228, 24731798591, 23150894443, 21556045062, 19948211125, 18328361132, 16697470820, 15056522576] ++
  [13406504845, 11748411537, 10083241426, 8411997547, 6735686595, 5055318317, 3371904904, 1686460383]

/-- Exponent and 24-bit significand of a nonzero real FP32 value, normalised (R111). -/
def normM (a : Ex) : Int × Nat :=
  let e := a.log2
  (e, (a.over (e - 23)).1 / (a.over (e - 23)).2)

/-- The exact real n × 2^e with a sign. -/
def pow2Ex (neg : Bool) (n : Nat) (e : Int) : Ex := { neg, num := n, den := 1, exp := e }
def intEx (n : Int) (e : Int) : Ex := { neg := decide (n < 0), num := n.natAbs, den := 1, exp := e }

/-- Rounds to FP32 and raises further flags. -/
def r32 (rm : Rm) (a : Ex) (fl : Flags) : Nat × Flags := let r := roundEx .f32 rm false a; (r.1, r.2 ||| fl)

/-- `a >> n` of a signed number: floor division by 2^n. -/
def sar (a : Int) (n : Nat) : Int := Int.shiftRight a n

/-- RCP of R113 for a nonzero real. -/
def rcpReal (rm : Rm) (a : Ex) : Nat × Flags :=
  let em := normM a
  if em.2 = 2 ^ 23 then r32 rm (pow2Ex a.neg 1 (-em.1)) 0
  else
    let y0 := nearest (2 ^ 39) (257 + 2 * (em.2 / 2 ^ 16 - 128))
    let step (y : Nat) : Nat := y * (2 ^ 55 - em.2 * y) / 2 ^ 54
    r32 rm (pow2Ex a.neg (step (step y0)) (-31 - em.1)) fI

/-- RSQRT of R114 for a positive real. -/
def rsqrtReal (rm : Rm) (a : Ex) : Nat × Flags :=
  let em := normM a
  let odd := decide (em.1 % 2 = 1)
  let m2 := if odd then em.2 * 2 else em.2
  let e2 := if odd then em.1 - 1 else em.1
  let i := (if odd then 64 else 0) + em.2 / 2 ^ 17 - 64
  if m2 = 2 ^ 23 then r32 rm (pow2Ex false 1 (-(e2 / 2))) 0
  else
    let step (y : Nat) : Nat := y * (3 * 2 ^ 54 - m2 * (y * y / 2 ^ 31)) / 2 ^ 55
    r32 rm (pow2Ex false (step (step (nth 0 tbTable i))) (-31 - e2 / 2)) fI

/-- floor(a × 2^k) of a real. -/
def floorScaled (a : Ex) (k : Nat) : Int := (roundInt (a.scale k) .rdn).1

/-- EXP2 of R115 for a nonzero real. An exponent beyond ±400 rounds as ±400 does, far outside the range of FP32. (DEDUCED, assumption 59.) -/
def exp2Real (rm : Rm) (a : Ex) : Nat × Flags :=
  let xf := floorScaled a 24
  let n := sar xf 24
  let f := (xf - n * 2 ^ 24).toNat
  let j := f / 2 ^ 18
  let g := f % 2 ^ 18
  let a3 := 257941248 + 59597083 * g / 2 ^ 24
  let a2 := 744261118 + a3 * g / 2 ^ 24
  let pl := 2 ^ 30 + a2 * g / 2 ^ 24
  r32 rm (pow2Ex false (nth 0 teTable j * pl / 2 ^ 30) (max (-400) (min 400 n) - 30)) (if (roundInt a .rtz).2 then fI else 0)

/-- LOG2 of R116 for a positive real. -/
def log2Real (rm : Rm) (a : Ex) : Nat × Flags :=
  let em := normM a
  let j := em.2 / 2 ^ 17 - 64
  let z : Nat := em.2 * nearest (2 ^ 36) (64 + j) / 2 ^ 23
  let w : Int := (z : Int) - 2 ^ 30
  let a1 : Int := 516360668 + sar (-387270501 * w) 30
  let a2 : Int := -774541002 + sar (a1 * w) 30
  let a3 : Int := 1549082005 + sar (a2 * w) 30
  let lv := sar (a3 * w) 30
  let tl : Nat := nth 0 tlTable j
  let bigl : Int := em.1 * 2 ^ 30 + tl + lv
  r32 rm (intEx bigl (-30)) (if em.2 = 2 ^ 23 then 0 else fI)

/-- SIN and COS of R117 for a real. -/
def sincosReal (isCos : Bool) (rm : Rm) (a : Ex) : Nat × Flags :=
  let fl := floorScaled a 32
  let xt := (fl % 2 ^ 32).toNat
  let qd := xt / 2 ^ 30
  let j := xt / 2 ^ 24 % 64
  let g := xt % 2 ^ 24
  let dl := g * 1686629713 / 2 ^ 24
  let d2 := dl * dl / 2 ^ 36
  let sn : Nat := dl - dl * d2 / 2 ^ 36 * 11453246123 / 2 ^ 36
  let cn : Nat := 2 ^ 36 - d2 / 2 + d2 * d2 / 2 ^ 36 * 2863311531 / 2 ^ 36
  let ts : Nat := nth 0 tsTable j
  let tc : Nat := nth 0 tcTable j
  let sv : Int := sar ((ts : Int) * cn + tc * sn) 36
  let cv : Int := sar ((tc : Int) * cn - ts * sn) 36
  let v : Int := if isCos then nth 0 [cv, -sv, -cv, sv] qd else nth 0 [sv, cv, -sv, -cv] qd
  let quarter := !(roundInt (a.scale 2) .rtz).2
  r32 rm (intEx v (-36)) (if quarter then 0 else fI)

/-- The special functions. -/
inductive SfuOp where
  | rcp | rsqrt | exp2 | log2 | sin | cos
deriving DecidableEq, Repr

/-- A special function of an FP32 value, its special operands under R112. -/
def sfu (op : SfuOp) (rm : Rm) (v : FV) : Nat × Flags :=
  match v with
  | .nan n sg p pb => let r := nanCode .f32 n p pb; (r.1, r.2 ||| (if sg then fV else 0))
  | .inf neg =>
    match op with
    | .rcp => (signed .f32 neg 0, 0)
    | .rsqrt => if neg then defaultNan .f32 else (0, 0)
    | .exp2 => if neg then (0, 0) else (0x7F800000, 0)
    | .log2 => if neg then defaultNan .f32 else (0x7F800000, 0)
    | .sin | .cos => defaultNan .f32
  | .fin a =>
    if a.num = 0 then
      match op with
      | .rcp | .rsqrt => (signed .f32 a.neg 0x7F800000, fZ)
      | .exp2 | .cos => (0x3F800000, 0)
      | .log2 => (0xFF800000, fZ)
      | .sin => (signed .f32 a.neg 0, 0)
    else
      match op with
      | .rcp => rcpReal rm a
      | .rsqrt => if a.neg then defaultNan .f32 else rsqrtReal rm a
      | .exp2 => exp2Real rm a
      | .log2 => if a.neg then defaultNan .f32 else log2Real rm a
      | .sin => sincosReal false rm a
      | .cos => sincosReal true rm a

end Sys2Proof.Machine
end

