-- ==== Sys2Proof/Machine/Float.lean ====
section
/-!
DEFINITION. Meanings of FARITH, FCMP, SFU, CVT and QUANT (R239 to R253); HAD32 and QCVT.e2m1 read a block here and write
it at BLOCK_WRITE (R249).
-/
namespace Sys2Proof.Machine

/-! ### FARITH (R239 to R243) -/

def arithTypes (l : Line) : Bool := l.ty.isArith
def f32Types (l : Line) : Bool := decide (l.ty = .f32)

/-- An operation on codes of a format: rounding mode, FTZ, operands a, b, d. -/
abbrev FOp := Fmt → Rm → Bool → Nat → Nat → Nat → Nat × Flags

/-- An operation applied at the line's type; .f16 and .bf16 are packed (R240). -/
def applyF (g : FOp) (l : Line) (j : Nat) (va vb vd : DWord) : Res :=
  let rm := l.rmOf j
  match l.ty with
  | .f64 => let r := g .f64 rm l.ftz va.toNat vb.toNat vd.toNat; { v := BitVec.ofNat 64 r.1, fl := r.2 }
  | .f16 | .bf16 =>
    let lo (v : DWord) := v.toNat % 65536
    let hi (v : DWord) := v.toNat / 65536 % 65536
    let r0 := g l.ty.fmt rm l.ftz (lo va) (lo vb) (lo vd)
    let r1 := g l.ty.fmt rm l.ftz (hi va) (hi vb) (hi vd)
    { v := BitVec.ofNat 64 (r0.1 % 65536 + r1.1 % 65536 * 65536), fl := r0.2 ||| r1.2 }
  | _ =>
    let lo (v : DWord) := v.toNat % 2 ^ 32
    let r := g .f32 rm l.ftz (lo va) (lo vb) (lo vd)
    { v := BitVec.ofNat 64 r.1, fl := r.2 }

/-- An arithmetic operation with FTZ on inputs and result (R98). -/
def arith (g : Fmt → Rm → FV → FV → FV → Nat × Flags) : FOp := fun f rm ftz a b d =>
  ftzOut f ftz (g f rm (f.value (ftzIn f ftz a)) (f.value (ftzIn f ftz b)) (f.value (ftzIn f ftz d)))

def fBin (g : Fmt → Rm → FV → FV → Nat × Flags) (l : Line) (j : Nat) (va vb : DWord) : Res :=
  applyF (arith fun f rm x y _ => g f rm x y) l j va vb 0

def execFadd (d : Fld) (a b : Src) (s : State) : Out := compute2 (.fadd d a b) d a b arithTypes (fBin addFV) s
def execFsub (d : Fld) (a b : Src) (s : State) : Out := compute2 (.fsub d a b) d a b arithTypes (fBin subFV) s
def execFmul (d : Fld) (a b : Src) (s : State) : Out := compute2 (.fmul d a b) d a b arithTypes (fBin mulFV) s

/-- FFMA and FFMS: d is also read, so a push is not allowed (R227). -/
def fused (i : Instr) (sub : Bool) (d : Fld) (a b : Src) (s : State) : Out :=
  perThread i (fun l => l.okXf l.ty.dbl d && l.okSrc false l.ty.dbl a && l.okSrc true l.ty.dbl b) arithTypes
    (fun s l j => computeThread l.ty.dbl l.ty.dbl l.ty.dbl a b (d.xregs l.ty.dbl)
      (fun s l j v => writeDst i s l j l.ty.dbl d v)
      (fun l j va vb => applyF (arith fun f rm x y z => fmaFV f rm x y z sub) l j va vb
        (if l.ty.dbl then l.xd j d.num else (l.x j d.num).setWidth 64)) s l j) s
def execFfma (d : Fld) (a b : Src) (s : State) : Out := fused (.ffma d a b) false d a b s
def execFfms (d : Fld) (a b : Src) (s : State) : Out := fused (.ffms d a b) true d a b s

def fMm (isMax : Bool) : FOp := fun f _ ftz a b _ => fminmax f isMax (ftzIn f ftz a) (ftzIn f ftz b)
def execFmin (d : Fld) (a b : Src) (s : State) : Out :=
  compute2 (.fmin d a b) d a b arithTypes (fun l j va vb => applyF (fMm false) l j va vb 0) s
def execFmax (d : Fld) (a b : Src) (s : State) : Out :=
  compute2 (.fmax d a b) d a b arithTypes (fun l j va vb => applyF (fMm true) l j va vb 0) s

/-- FABS, FNEG, FSGNJ: the sign bit only (R242). -/
def signOp (g : Bool → Bool → Bool) : FOp := fun f _ _ a b _ =>
  (a % f.signW + (if g (decide (a / f.signW % 2 = 1)) (decide (b / f.signW % 2 = 1)) then f.signW else 0), 0)
def execFabs (d : Fld) (a : Src) (s : State) : Out :=
  compute2 (.fabs d a) d a noB arithTypes (fun l j va vb => applyF (signOp fun _ _ => false) l j va vb 0) s
def execFneg (d : Fld) (a : Src) (s : State) : Out :=
  compute2 (.fneg d a) d a noB arithTypes (fun l j va vb => applyF (signOp fun x _ => !x) l j va vb 0) s
def execFsgnj (d : Fld) (a b : Src) (s : State) : Out :=
  compute2 (.fsgnj d a b) d a b arithTypes (fun l j va vb => applyF (signOp fun _ y => y) l j va vb 0) s

/-- The class mask of R243. -/
def fclassBit (f : Fmt) (code : Nat) : Nat :=
  let sub := decide (code / 2 ^ f.fbits % 2 ^ f.ebits = 0)
  match f.value code with
  | .nan _ sig _ _ => if sig then 8 else 9
  | .inf n => if n then 0 else 7
  | .fin e => if e.num = 0 then (if e.neg then 3 else 4)
    else if sub then (if e.neg then 2 else 5) else (if e.neg then 1 else 6)

/-- The code of the operand of FCMP, FCLASS: the low half for 16-bit types (R240). -/
def lowCode (ty : Ty) (v : DWord) : Nat := v.toNat % 2 ^ ty.bits

/-- FCLASS writes a 32-bit destination; under .f64 field a is a pair and d one register (R243). -/
def execFclass (d : Fld) (a : Src) (s : State) : Out :=
  perThread (.fclass d a) (fun l => l.okDst false d && l.okSrc false l.ty.dbl a) arithTypes
    (fun s l j => computeThread l.ty.dbl false false a noB (d.xregs false)
      (fun s l j v => writeDst (.fclass d a) s l j false d v)
      (fun l _ va _ => l.tapped d { v := BitVec.ofNat 64 (2 ^ fclassBit l.ty.fmt (lowCode l.ty va)) }) s l j) s

/-- FCMP (R244): the condition and the flags. -/
def fcmpOf (c : FCmp) (x y : FV) : Bool × Flags :=
  let un := x.isNan || y.isNan
  let sig := x.isSig || y.isSig
  let k := x.cmp y
  match c with
  | .eq => (!un && decide (k = 0), if sig then fV else 0)
  | .ne => (un || decide (k ≠ 0), if sig then fV else 0)
  | .lt => (!un && decide (k < 0), if un then fV else 0)
  | .le => (!un && decide (k ≤ 0), if un then fV else 0)
  | .gt => (!un && decide (0 < k), if un then fV else 0)
  | .ge => (!un && decide (0 ≤ k), if un then fV else 0)
  | .un => (un, if sig then fV else 0)
  | .ord => (!un, if sig then fV else 0)

def execFcmp (c : FCmp) (d : Fld) (a b : Src) (s : State) : Out :=
  computeP (.fcmp c d a b) d a b arithTypes
    (fun l _ va vb =>
      let f := l.ty.fmt
      let r := fcmpOf c (f.value (ftzIn f l.ftz (lowCode l.ty va))) (f.value (ftzIn f l.ftz (lowCode l.ty vb)))
      { v := boolD r.1, fl := r.2 }) s

/-! ### SFU (R245) -/

def sfuThread (op : SfuOp) (l : Line) (j : Nat) (va _ : DWord) : Res :=
  let r := ftzOut .f32 l.ftz (sfu op (l.rmOf j) (Fmt.f32.value (ftzIn .f32 l.ftz (va.toNat % 2 ^ 32))))
  { v := BitVec.ofNat 64 r.1, fl := r.2 }
def execRcp (d : Fld) (a : Src) (s : State) : Out := compute2 (.rcp d a) d a noB f32Types (sfuThread .rcp) s
def execRsqrt (d : Fld) (a : Src) (s : State) : Out := compute2 (.rsqrt d a) d a noB f32Types (sfuThread .rsqrt) s
def execExp2 (d : Fld) (a : Src) (s : State) : Out := compute2 (.exp2 d a) d a noB f32Types (sfuThread .exp2) s
def execLog2 (d : Fld) (a : Src) (s : State) : Out := compute2 (.log2 d a) d a noB f32Types (sfuThread .log2) s
def execSin (d : Fld) (a : Src) (s : State) : Out := compute2 (.sin d a) d a noB f32Types (sfuThread .sin) s
def execCos (d : Fld) (a : Src) (s : State) : Out := compute2 (.cos d a) d a noB f32Types (sfuThread .cos) s

/-! ### CVT (R246, R247) -/

/-- The value of a CVT source. -/
def cvtValue (ty : Ty) (ftz : Bool) (v : DWord) : FV :=
  if ty.isInt then .fin (Ex.ofInt (intVal ty v))
  else if ty = .e8m0 then e8m0Value (v.toNat % 256)
  else ty.fmt.value (ftzIn ty.fmt ftz (lowCode ty v))

/-- CVT's result. -/
def cvtRes (src dst : Ty) (rm : Rm) (ftz isat : Bool) (v : DWord) : Res :=
  if dst.isInt then
    if src.isInt then { v := intPut dst (intResult isat (intVal src v) dst.bits dst.sgn) }
    else
      let r := toIntType (cvtValue src ftz v) dst.bits dst.sgn rm
      { v := intPut dst r.1, fl := r.2 }
  else
    let r := ftzOut dst.fmt ftz (roundFV dst.fmt rm false (cvtValue src ftz v))
    { v := BitVec.ofNat 64 r.1, fl := r.2 }

/-- The source type is lmode.TYPE, and .i8 and .i4 are refused; so is a destination code above 0x0B (R246). -/
def execCvt (t : Ty) (d : Fld) (a : Src) (s : State) : Out :=
  perThread (.cvt t d a) (fun l => l.okDst t.dbl d && l.okSrc false l.ty.dbl a)
    (fun l => l.ty != .i8 && l.ty != .i4 && decide (t.code < 12))
    (fun s l j => computeThread l.ty.dbl false t.dbl a noB (d.xregs t.dbl)
      (fun s l j v => writeDst (.cvt t d a) s l j t.dbl d v)
      (fun l j va _ => l.tapped d (cvtRes l.ty t (l.rmOf j) l.ftz l.isat va)) s l j) s

/-! ### QUANT (R248 to R253) -/

/-- The FP32 value of an operand under FTZ. -/
def f32In (l : Line) (v : DWord) : FV := Fmt.f32.value (ftzIn .f32 l.ftz (v.toNat % 2 ^ 32))

def qcvtF (f : Fmt) (l : Line) (j : Nat) (va _ : DWord) : Res :=
  let r := roundFV f (l.rmOf j) l.nonsat (f32In l va)
  { v := BitVec.ofNat 64 r.1, fl := r.2 }
def execQcvtE4m3 (d : Fld) (a : Src) (s : State) : Out := compute2 (.qcvtE4m3 d a) d a noB f32Types (qcvtF .e4m3) s
def execQcvtE5m2 (d : Fld) (a : Src) (s : State) : Out := compute2 (.qcvtE5m2 d a) d a noB f32Types (qcvtF .e5m2) s

def qcvtI (qmax : Nat) (l : Line) (j : Nat) (va vb : DWord) : Res :=
  let r := asymQuant (f32In l va) (vb.setWidth 32) qmax (l.rmOf j)
  { v := BitVec.ofNat 64 r.1, fl := r.2 }
def execQcvtI8 (d : Fld) (a b : Src) (s : State) : Out := compute2 (.qcvtI8 d a b) d a b f32Types (qcvtI 255) s
def execQcvtI4 (d : Fld) (a b : Src) (s : State) : Out := compute2 (.qcvtI4 d a b) d a b f32Types (qcvtI 15) s

def execQrange (i4 : Bool) (d : Fld) (a b : Src) (s : State) : Out :=
  compute2 (.qrange i4 d a b) d a b f32Types
    (fun _ _ va vb =>
      let r := qrange (Fmt.f32.value (va.toNat % 2 ^ 32)) (Fmt.f32.value (vb.toNat % 2 ^ 32)) (if i4 then 15 else 255)
      { v := r.1.setWidth 64, fl := r.2.1, dr := r.2.2 }) s

/-- SRND (R252): a an x register, b the k register of the seed, d the index and then the code. -/
def srndForm (i : Instr) (f : Fmt) (d a b : Fld) (s : State) : Out :=
  perThread i (fun l => l.okXf false d && l.okXf false a && l.okKf false b) f32Types
    (fun s l j => ready s l j (d.xregs false ++ a.xregs false) [b.num] <|
      let r := srnd (f32In l ((l.x j a.num).setWidth 64)) f (l.kr b.num) (l.x j d.num)
      let r := if f.wide then ftzOut f l.ftz r else r
      match raise (l.fpst j) r.2 with
      | .error m => .trap { cls := 0x1E, code := m }
      | .ok st => .ok s ((l.setFpst j st).setX j d.num (BitVec.ofNat 32 r.1))) s
def execSrndE4m3 (d a b : Fld) (s : State) : Out := srndForm (.srndE4m3 d a b) .e4m3 d a b s
def execSrndE5m2 (d a b : Fld) (s : State) : Out := srndForm (.srndE5m2 d a b) .e5m2 d a b s
def execSrndE2m1 (d a b : Fld) (s : State) : Out := srndForm (.srndE2m1 d a b) .e2m1 d a b s
def execSrndBf16 (d a b : Fld) (s : State) : Out := srndForm (.srndBf16 d a b) .bf16 d a b s
def execSrndF16 (d a b : Fld) (s : State) : Out := srndForm (.srndF16 d a b) .f16 d a b s

/-! ### Block instructions (R104, R110, R249 to R251) -/

/-- One butterfly stage of had32 over codes and flags (R110). -/
def hadStage (ftz : Bool) (st : Nat) (xs : List (Nat × Flags)) : List (Nat × Flags) :=
  (List.range 32).map fun i =>
    let lo := if i.testBit st then i - 2 ^ st else i
    let a := nth (0, 0) xs lo
    let b := nth (0, 0) xs (lo + 2 ^ st)
    let va := Fmt.f32.value (ftzIn .f32 ftz a.1)
    let vb := Fmt.f32.value (ftzIn .f32 ftz b.1)
    let r := ftzOut .f32 ftz (if i.testBit st then subFV .f32 .rne va vb else addFV .f32 .rne va vb)
    (r.1, (nth (0, 0) xs i).2 ||| r.2)

/-- had32 of R110: codes and, for each position, the flags of every rounding of its own. -/
def had32 (ftz : Bool) (sc : HadScale) (xs : List Nat) : List (Nat × Flags) :=
  let ys := (List.range 5).foldl (fun v st => hadStage ftz st v) (xs.map fun x => (ftzIn .f32 ftz x, 0))
  let scale (k : FV) (p : Nat × Flags) : Nat × Flags :=
    let r := ftzOut .f32 ftz (mulFV .f32 .rne (Fmt.f32.value p.1) k)
    (r.1, p.2 ||| r.2)
  match sc with
  | .one => ys
  | .div32 => ys.map (scale (.fin { neg := false, num := 1, den := 1, exp := -5 }))
  | .orth => ys.map (scale (Fmt.f32.value 0x3E3504F3))

/-- mx_quantise of R104 with a rounding mode for each element: the scale, the codes and flags, and V for the block. -/
def mxQuantise (rms : List Rm) (vs : List FV) : Nat × List (Nat × Flags) × Flags :=
  if vs.any (fun v => match v with | .fin _ => false | _ => true) then (0xFF, vs.map fun _ => (0, 0), fV)
  else
    let es := vs.filterMap fun v => match v with | .fin e => if e.num = 0 then none else some e.log2 | _ => none
    let x : Int := match es with
      | [] => 0
      | e :: r => max (-127) (min 127 (r.foldl max e - 2))
    ((x + 127).toNat,
      (vs.zip rms).map fun p => match p.1 with
        | .fin e => roundEx .e2m1 p.2 false (e.scale (-x))
        | _ => (0, 0), 0)

/-- The threads of the block that holds thread tri. -/
def blockThreads (l : Line) : List Nat := (List.range 32).map fun i => l.tri / 32 * 32 + i

/-- Whether thread j belongs to the issue mask. -/
def Line.inMask (l : Line) (j : Nat) : Bool := decide (j < l.width) && l.isActive j && l.guard j

/-- Thirty-three words of a block carry from a list. -/
def carryOf (ws : List Word) : Vector Word 33 :=
  (List.range 33).foldl (fun v i => v.setIfInBounds i (nth 0 ws i)) (Vector.replicate 33 0)

/-- Reads a block: every thread's operand, +0.0 outside the issue mask; the results become the block carry and the line waits
for BLOCK_WRITE. A resumed block is written without reading. A block whose reading met a value that was not delivered stands at that
thread with no thread's effect taken, and is read whole again (R55, R249). -/
def blockRead (i : Instr) (d a : Fld) (g : Line → List Nat → List Word × Word × List Flags) (s : State) : Out :=
  onLine s fun l =>
    if !(l.okDst false d && l.okXf false a) then .next (faultAt s { l with tri := 0 } i 0 { cls := 0x03 })
    else if !(decide (l.ty = .f32) && decide (32 ≤ l.width)) then .next (faultAt s { l with tri := 0 } i 0 { cls := 0x01 })
    else if l.bv then .next (s.park l (.block i) l.tri)
    else
      match ((blockThreads l).filter l.inMask).findSome? (fun j => (l.pendingX j (a.xregs false)).map fun n => (j, n)) with
      | some p => .next (s.park l (.reg p.1 p.2) l.tri)
      | none =>
        match ((blockThreads l).filter l.inMask).findSome? (fun j => (l.failedX j (a.xregs false)).map fun r => (j, r)) with
        | some p => .next (faultAt s l i p.1 (consumeFault p.1 p.2.1 p.2.2))
        | none =>
          let ws := g l ((blockThreads l).map fun j => if l.inMask j then (l.x j a.num).toNat else 0)
          .next (s.park { l with block := (carryOf ws.1).setIfInBounds 32 ws.2.1, blockFl := ws.2.2, bv := true } (.block i) (l.tri / 32 * 32))

/-- What HAD32 carries: the results of a block and their flags. -/
def hadWords (sc : HadScale) (l : Line) (xs : List Nat) : List Word × Word × List Flags :=
  let r := had32 l.ftz sc xs
  (r.map fun p => BitVec.ofNat 32 p.1, 0, r.map (·.2))

def execHad32 (sc : HadScale) (d : Fld) (a : Fld) (s : State) : Out := blockRead (.had32 sc d a) d a (hadWords sc) s

/-- What QCVT.e2m1 carries (R251): V, when raised, for every thread. Each of the 32 words is a whole result word, its scale included, and the block
scale stands beside them, from which no write is made. (DESIGN CHOICE, assumption 101.) -/
def mxWords (l : Line) (xs : List Nat) : List Word × Word × List Flags :=
  let r := mxQuantise ((blockThreads l).map l.rmOf) (xs.map fun x => Fmt.f32.value (ftzIn .f32 l.ftz x))
  (r.2.1.map fun p => BitVec.ofNat 32 (r.1 * 256 + p.1), BitVec.ofNat 32 r.1, r.2.1.map fun p => p.2 ||| r.2.2)

def execQcvtE2m1 (d : Fld) (a : Fld) (s : State) : Out := blockRead (.qcvtE2m1 d a) d a mxWords s

/-- The destination of a block instruction. -/
def blockDst : Instr → Option Fld
  | .had32 _ d _ => some d
  | .qcvtE2m1 d _ => some d
  | _ => none

/-- The writes of a block in ascending thread order, from tri, each with its exceptions (R110, R251). A write that waits stays a write of the
block: pre-emption comes between blocks only (R249). -/
def blockLoop (i : Instr) (d : Fld) : List Nat → State → Line → State ⊕ (State × Line)
  | [], s, l => .inr (s, l)
  | j :: js, s, l =>
    match raise (l.fpst j) (nth 0 l.blockFl (j % 32)) with
    | .error m => .inl (faultAt s l i j { cls := 0x1E, code := m })
    | .ok st =>
      match ready s l j (d.xregs false) [] (match writeDst i s (l.setFpst j st) j false d ((l.block.getD (j % 32) 0).setWidth 64) with
        | .ok s' l' => settlePush s s' l l' j
        | r => r) with
      | .ok s' l' => blockLoop i d js s' l'
      | .wait s' _ => .inl (s'.park l (.block i) j)
      | .trap f => .inl (faultAt s l i j f)
      | .done s' => .inl s'

/-- BLOCK_WRITE (R249): the results of a block are written; the line goes on to its second block or to the next
instruction. -/
def execBlockWrite (r : LineRef) (s : State) : Out :=
  match s.line r with
  | none => .next s
  | some l =>
    match l.status with
    | .wait (.block i) =>
      match blockDst i with
      | none => .next s
      | some d =>
        match blockLoop i d ((blockThreads l).filter fun j => decide (l.tri ≤ j) && l.inMask j) s l with
        | .inl s' => .next (s'.offSlot r)
        | .inr (s', l') =>
          let l' := { l' with bv := false, block := Vector.replicate 33 0, blockFl := [] }
          if l.tri < 32 ∧ l.width = 64 then .next (s'.setLine { l' with tri := 32, status := .ready })
          else .next (s'.finish l')
    | _ => .next s

end Sys2Proof.Machine
end

