-- ==== Sys2Proof/Machine/Order.lean ====
section
/-!
DEFINITION. What a fence and a release wait for (R173 to R175), which error records a fence delivers (R174, R187), the
divergence stack (R49 to R53), and the end of a line and of a set (R322).
-/
namespace Sys2Proof.Machine

/-! ### Fences -/

def accOf (a : Access) (r : LineRef) : Bool := match a.issuer with | .line q _ => decide (q = r) | _ => false

/-- A request that brings a value of a load. -/
def BankReq.isLoad (q : BankReq) : Bool := match q.op with | .load .. => true | _ => false

/-- The conditions of a fence of a scope for every access of the line numbered below `before`: every load has returned its value (R174);
set scope asks the banks for scratchpad and the slices for global accesses, hall scope also the members' banks and the completion times,
device scope also the host, domain scope the peers (R173). (DEDUCED, assumption 85.) -/
def State.fenceOk (s : State) (l : Line) (sc : Scope) (before : Nat) : Bool :=
  let mine := s.flight.filter fun a => accOf a l.ref && decide (a.id < before)
  let banks := (s.bankQ ++ s.waitQ).filter fun q => decide (q.issuer = l.ref) && decide (q.id < before)
  let peers := s.fab.waits.filter fun w => decide (w.issuer = l.ref) && decide (w.id < before) && !w.red && w.done.isNone
  let loads := (mine.all fun a => decide (a.kind ≠ .load)) && (banks.all fun q => !q.isLoad) && peers.all fun w => decide (w.kind ≠ .load)
  let performed := mine.all fun a => match a.phase, a.place with
    | .performed _, _ => true
    | .sent, .host _ => true
    | _, _ => false
  let acked (host : Bool) : Bool := mine.all fun a => match a.phase, a.place with
    | .unconfirmed _, _ => false
    | _, .dev _ => false
    | _, .host _ => !host
    | _, .spad .. => true
  let global (host : Bool) : Bool := banks.isEmpty && loads && acked host && decide (l.hd ≤ s.time)
  match sc with
  | .line => true
  | .set => (banks.all fun q => q.gal) && loads && performed
  | .hall => global false
  | .dev => global true
  | .dom => global true && peers.isEmpty && decide (l.hx + Config.margin ≤ s.time) && (s.pkg.tblock || !s.pkg.everReady)

/-- Which coverage codes a fence of a scope delivers (R174). -/
def fenceCovers : Scope → Nat → Bool
  | .dev, c => decide (c = 6)
  | .dom, c => decide (c = 6) || decide (c = 7)
  | _, _ => false

/-- The asynchronous-error fault of an error record (R174, R372, R373). -/
def asyncFault (e : Rec) : FaultInfo :=
  { cls := 0x13, code := e.cls, addr := e.addr, port := e.port, elem := e.elem, peer := e.peer, reason := e.reason,
    queue := e.queue, qent := e.qent }

/-- The error record that a test covers whose access was made first, whichever failed first in time (R118), and the line without it: each
record is delivered once (R174). -/
def Line.takeErr (l : Line) (covers : Nat → Bool) : Option (Rec × Line) :=
  match leastBy (fun e : Nat × Rec => e.2.uid) (l.errs.filter fun e => covers e.1) with
  | some e => some (e.2, { l with errs := l.errs.erase e })
  | none => none

/-- The value that was not delivered to the lowest thread, of several that of the earliest access (R118). -/
def Line.firstFailed (l : Line) : Option (Nat × Nat × Rec) :=
  (leastBy (fun f : Nat × Nat × Rec => f.1) l.failed).bind fun g => l.failedAt g.1

/-- What reaches a line at a fence whose conditions hold: a value that was not delivered, charged to the fence, whose TRI is 0, with the thread
that it was for in ELEM (R55, R118; DEDUCED, assumption 96), or an error record. -/
def Line.fenceFault (l : Line) (sc : Scope) : Option (FaultInfo × Line) :=
  match (if sc = .line then none else l.firstFailed) with
  | some f => some ({ consumeFault f.1 f.2.1 f.2.2 with elem := f.1 }, l)
  | none => (l.takeErr (fenceCovers sc)).map fun p => (asyncFault p.1, p.2)

/-! ### The divergence stack (R49 to R53) -/

def Line.entry (l : Line) (i : Nat) : StackEntry := l.stack.getD i StackEntry.zero

/-- One pop (R51): pc, active and crv take the top entry's values. -/
def Line.pop (l : Line) : Line :=
  let e := l.entry (l.depth - 1)
  { l with pc := e.pc, active := e.mask, crv := e.rcv, depth := l.depth - 1 }

/-- Pops while pc equals crv and the stack is not empty (R51). -/
def popsFuel : Nat → Line → Line
  | 0, l => l
  | n + 1, l => if l.pc = l.crv ∧ 0 < l.depth then popsFuel n l.pop else l
def Line.pops (l : Line) : Line := popsFuel l.depth l

/-- Pushes an entry. -/
def Line.push (l : Line) (e : StackEntry) : Line := { l with stack := l.stack.setIfInBounds l.depth e, depth := l.depth + 1 }

/-- The live entries, lowest first. -/
def Line.entries (l : Line) : List StackEntry := (List.range l.depth).map l.entry

/-- Step 1 of R53: the thread's bit clears in every entry, and empty entries are removed. -/
def Line.clearStack (l : Line) (j : Nat) : Line :=
  let es := (l.entries.map fun e => { e with mask := e.mask &&& ~~~(maskBit j) }).filter fun e => decide (e.mask ≠ 0)
  { l with stack := es.zipIdx.foldl (fun v p => v.setIfInBounds p.2 p.1) l.stack, depth := es.length }

/-- A thread leaves (R53, step 1). -/
def Line.leave (l : Line) (j : Nat) : Line := ({ l with active := l.active &&& ~~~(maskBit j) }).clearStack j

/-! ### End of a line (R43, R322) -/

/-- SREL's effect on the set (R284): the held granule's tag clears. What the line waited for is given up. -/
def State.releasePorts (s : State) (l : Line) : State := l.ports.toList.foldl (fun t p => t.releaseHeld p.held) (s.dropWaits l)

/-- A line leaves its quadrille; a quadrille of one dissolves (R43). -/
def CSet.quit (c : CSet) (idx : Nat) : CSet :=
  let m := fld c.qdst 0 16 &&& (65535 - 2 ^ idx)
  if bit c.qdst idx then
    { c with qdst := if popC m ≤ 1 then 0 else BitVec.ofNat 32 (fld c.qdst 16 16 * 65536 + m)
             latch := if popC m ≤ 1 then [] else c.latch }
  else c
where popC (n : Nat) : Nat := (List.range 16).countP fun i => n.testBit i

/-- Accesses of a line that are not acknowledged. -/
def State.outstanding (s : State) (r : LineRef) : Bool :=
  s.flight.any (accOf · r) || (s.bankQ ++ s.waitQ).any (fun q => decide (q.issuer = r)) ||
  s.fab.waits.any (fun w => decide (w.issuer = r) && w.done.isNone)

/-- Queue operations that the lines of a set have entered and that have not completed. -/
def State.queued (s : State) (r : SetRef) : Bool :=
  s.copyQ.any (fun c => decide (setOf c.issuer = r)) || s.drainQ.any (fun o => decide (setOf o.issuer = r)) ||
  s.matQ.any (fun o => decide (setOf o.issuer = r)) || s.runs.any (fun m => decide (m.set = r)) ||
  s.loads.any (fun b => decide (b.set = r))

/-- Whether every resident set of a set's hall has ended: the sets of a hall are co-resident, all or none (R45), so the window
of a member stays within its hall's reach (R156) until the last of them ends. (DEDUCED, assumption 30.) -/
def State.hallEnded (s : State) (c : CSet) : Bool :=
  s.sets.all fun d => !(decide (d.ref.grid = c.ref.grid) && decide (d.hall = c.hall)) || decide (d.phase = .ended)

/-- Frees ended lines whose accesses are acknowledged, and the sets of ended halls whose queue operations are complete (R322). (DEDUCED, assumption 30.) -/
def State.reap (s : State) : State :=
  { s with
    lines := s.lines.filter fun l => !(decide (l.status = .ended) && !s.outstanding l.ref)
    sets := s.sets.filter fun c => !(decide (c.phase = .ended) && s.hallEnded c && !s.queued c.ref &&
      !s.lines.any (fun l => decide (setOf l.ref = c.ref) && s.outstanding l.ref)) }

/-- The set ends when its last line ends; the grid counts it (R46, R322). -/
def State.setEnds (s : State) (r : SetRef) : State :=
  if (s.linesOf r).all (fun l => decide (l.status = .ended)) then
    ((s.updSet r fun c => { c with phase := .ended }).updGrid r.grid fun g => { g with ended := g.ended + 1 })
  else s

/-- A line that waits in the rendezvous latch (R42). -/
def Line.inLatch (l : Line) : Bool := match l.status with | .wait (.latch _) => true | _ => false

/-- The members of a quadrille that have not yet reached the latch. -/
def CSet.missing (c : CSet) : List Nat := (List.range 16).filter fun i => bit c.qdst i && !c.latch.contains i

/-- After a member left: when one member remains, its MMA issues alone; when every remaining member waits in the latch, the
latest of them acts as the last arriver (R43, R297). They look again at their MMA. -/
def State.latchAgain (s : State) (r : SetRef) : State :=
  match s.cset r with
  | none => s
  | some c =>
    if fld c.qdst 0 16 = 0 then
      { s with lines := s.lines.map fun m =>
          if setOf m.ref = r ∧ m.inLatch then { m with status := .ready } else m }
    else if c.missing.isEmpty then
      match c.latch.getLast? with
      | none => s
      | some last =>
        { (s.updSet r fun c => { c with latch := c.latch.dropLast, qdst := c.qdst &&& ~~~(1#32 <<< (last + 16)) }) with
          lines := s.lines.map fun m =>
            if setOf m.ref = r ∧ m.ref.line = last ∧ m.inLatch then { m with status := .ready } else m }
    else s

/-- A line ends (R322). -/
def State.lineEnds (s : State) (l : Line) : State :=
  let s := (s.releasePorts l).setLine { l with status := .ended, ports := Vector.replicate 16 Port.unbound,
                                               ends := Vector.replicate 16 0, grants := [] }
  (((s.updSet (setOf l.ref) fun c => c.quit l.ref.line).latchAgain (setOf l.ref)).setEnds (setOf l.ref)).reap

/-- A line in which threads have left goes on: it pops when no active thread is left, and ends when nothing is left (R53,
steps 2 and 3). `l` stands at the next instruction. -/
def State.afterLeave (s : State) (l : Line) : State :=
  if l.active ≠ 0 then s.setLine l
  else if 0 < l.depth then s.setLine l.pop
  else s.lineEnds l

end Sys2Proof.Machine
end

