-- ==== Sys2Proof/Machine/Net.lean ====
section
/-!
DEFINITION. What a line's peer access does at issue (R259, R334, R335, R344): reachability, the send queues, the packet that
gathers an instruction's accesses to one 128-byte line.
-/
namespace Sys2Proof.Machine

/-! ### Peer addresses (R145, R146) -/

def peerPkg (a : Nat) : Nat := a / 2 ^ 52 % 4096
def peerDie (a : Nat) : Nat := a / 2 ^ 51 % 2
def peerVa (a : Nat) : Nat := a % 2 ^ 51

/-! ### Reachability (R344, R422, R425) -/

/-- A slot's port word faces a port (R338, R381): not dark. -/
def slotFace (sl : Slot) (n : Nat) : Option (Nat × Nat) :=
  if sl.dark.testBit n then none else let w := nth 0 sl.ports n; some (fld w 0 12, fld w 12 4)

/-- Whether a port counts as a figure-mode port of the partition; until a switch it stands as before (R368). -/
def State.ownsPort (s : State) (part n : Nat) : Bool := (s.part part).pport.testBit n
def State.portPacket (s : State) (n : Nat) : Bool := (s.fab.ports.getD n FPort.reset).packet

/-- Ports that can face a destination in some slot of the table in force; `die = none` for any die. -/
def State.figureReaches (s : State) (part pkg : Nat) (die : Option Nat) : Bool :=
  match (s.part part).figure with
  | none => false
  | some f => f.slots.any fun sl => (List.range 16).any fun n =>
      s.ownsPort part n && !s.portPacket n &&
      match slotFace sl n with
      | some (p, q) => decide (p = pkg) && (match die with | some d => decide (q / 8 = d) | none => true)
      | none => false

def State.packetReaches (s : State) (part pkg : Nat) : Bool :=
  (tget 0 (s.part part).route (pkg / 32)).getLsbD (pkg % 32) &&
    (List.range 16).any fun n => s.ownsPort part n && s.portPacket n

/-- The relay package of a destination, when its route is valid (R343). -/
def State.relayOf (s : State) (part pkg die : Nat) : Option Nat :=
  let w := tget 0 (s.part part).rlypkg (2 * pkg + die)
  if bit w 31 then some (fld w 0 12) else none

/-- A port of the package faces the destination, or the switch leads there. -/
def State.faced (s : State) (part pkg die : Nat) : Bool := s.figureReaches part pkg (some die) || s.packetReaches part pkg

/-- Reached directly: loopback, figure mode or packet mode. -/
def State.direct (s : State) (part pkg die : Nat) : Bool :=
  decide (pkg = s.pkg.domid) || ((s.pkg.tblock || !s.pkg.everReady) && s.faced part pkg die)

/-- Reachable under the tables and routes as they stand (R344). -/
def State.routed (s : State) (part pkg die : Nat) : Bool :=
  decide (pkg = s.pkg.domid) || s.faced part pkg die ||
    match s.relayOf part pkg die with | some x => s.figureReaches part x none | none => false

/-- Reachable now: the package has its id, and other packages count while the time base is locked (R344, R422, R425). -/
def State.reachable (s : State) (part pkg die : Nat) : Bool :=
  s.pkg.didv && s.routed part pkg die && (decide (pkg = s.pkg.domid) || s.pkg.tblock || !s.pkg.everReady)

/-! ### Send queues (R333 to R336) -/

/-- A source queue's number: die, package, destination die, class. -/
def queueNo (die pkg ddie cls : Nat) : Nat := ((die * 4096 + pkg) * 2 + ddie) * 3 + cls

/-- The size of a packet of a type and a mask, encrypted or not (R334). -/
def packetLen (ty mask : Nat) (enc : Bool) : Nat :=
  let n := popC mask
  16 + (match ty with
    | 0 => 128
    | 1 => if n = 128 then 128 else 16 + (n + 15) / 16 * 16
    | 2 => 16
    | 3 => (n + 15) / 16 * 16
    | 4 => 16
    | 5 => 24
    | 6 => 32 + 4 * n
    | 7 => 8
    | _ => 0) + (if enc then 16 else 0)
where popC (m : Nat) : Nat := (List.range 128).countP fun i => m.testBit i
def Packet.size (p : Packet) : Nat := packetLen p.ty p.mask p.enc

def SendEnt.bytes (e : SendEnt) : Nat := match e.item with | .packet p => Packet.size p | .marker _ => 0

/-- A read completion that has left. No answer comes for it; its entry stays only so that it can be sent again (R346). (DESIGN CHOICE, assumption 76.) -/
def SendEnt.isSentRead (e : SendEnt) : Bool := e.sent && match e.item with | .packet p => decide (p.ty = 3) | .marker _ => false

/-- Bytes that stand in a die's send buffer, of every partition that uses the die (R335). (DESIGN CHOICE, assumption 104.) -/
def State.sendLoad (s : State) (die : Nat) : Nat :=
  ((s.fab.sendQ.filter fun e => decide (e.die = die) && !e.isSentRead).map SendEnt.bytes).foldl (· + ·) 0

/-- Whether the send buffer can take `n` more bytes: the SBUF units of 64 MiB of the partition that sends (R335). (DESIGN CHOICE, assumption 104.) -/
def State.sendRoom (s : State) (die part n : Nat) : Bool :=
  decide (s.sendLoad die + n ≤ (s.part part).sbuf * 2 ^ 26)

/-- What a peer access asks. -/
structure PeerReq where
  ty : Nat
  kind : AccKind
  addr : Nat
  size : Nat
  data : List Byte := []
  ext : List Byte := []
  aux : Nat := 0
  dst : Option Nat := none
  sx : Bool := false
  acq : Bool := false
  rel : Option Scope := none
  red : Bool := false

/-- The mask bits of an access inside its 128-byte line; a contribution's mask counts elements of 4 bytes. -/
def PeerReq.mask (q : PeerReq) : Nat :=
  if q.red then 2 ^ (q.addr % 128 / 4) else (2 ^ q.size - 1) * 2 ^ (q.addr % 128)

/-- The packets that requests make, each as its type, the address of its line and its mask: one for each line, but one for each atomic, and a
new one for a contribution to an element that a packet holds (R259, R334). -/
def packetsOf : List PeerReq → List (Nat × Nat × Nat) → List (Nat × Nat × Nat)
  | [], ps => ps
  | q :: r, ps =>
    let fits (p : Nat × Nat × Nat) : Bool := decide (q.ty ≠ 4) && decide (p.2.1 = q.addr / 128) && !(q.red && decide (p.2.2 &&& q.mask ≠ 0))
    if ps.any fits then packetsOf r (upd fits (fun p => (p.1, p.2.1, p.2.2 ||| q.mask)) ps) else packetsOf r ((q.ty, q.addr / 128, q.mask) :: ps)

/-- The bytes that the packets of an instruction take from thread j on (R335): `req` is a thread's request, which is known when the registers
`srcs` have their values; a thread whose request is not yet known counts as a packet of the largest size, 176 bytes. (DESIGN CHOICE, assumption 77.) -/
def instrBytes (l : Line) (srcs : List Nat) (req : Nat → PeerReq) (j : Nat) : Nat :=
  let js := l.issueMask.filter fun k => decide (j ≤ k)
  let known (k : Nat) : Bool := srcs.all fun n => !l.pend.contains (k, n)
  176 * (js.filter fun k => !known k).length +
    ((packetsOf ((js.filter known).map req) []).map fun p => packetLen p.1 p.2.2 false).foldl (· + ·) 0

/-- The traffic class of a line's grid (R335, R388). -/
def State.classOf (s : State) (r : LineRef) : Nat :=
  match s.grid r.grid with | some g => fld (g.pkt.getD 0 0) 10 1 | none => 0

/-- Whether an entry carries accesses of the line's current instruction. -/
def SendEnt.ofInstr (e : SendEnt) (l : Line) : Bool := decide (e.issuer = some l.ref) && decide (e.ino = l.issueNo)

/-- The packets of one instruction are gathered by destination and 128-byte line, except atomics (R259). -/
def gathers (l : Line) (q : PeerReq) (e : SendEnt) : Bool :=
  decide (q.ty ≠ 4) && !e.sent && e.ofInstr l &&
  match e.item with
  | .packet p => decide (p.ty = q.ty) && decide (p.dpkg = peerPkg q.addr) && decide (p.ddie = peerDie q.addr) &&
      decide (p.addr / 128 = peerVa q.addr / 128) && !(q.red && decide (p.mask &&& q.mask ≠ 0))
  | .marker _ => false

/-- The line as a peer access leaves it: a register that awaits its value. -/
def Line.pendPeer (l : Line) (j : Nat) (q : PeerReq) : Line :=
  match q.dst with
  | some d => if d = 0 then l else { l with pend := l.pend ++ (regs (decide (q.size = 8)) d).map fun n => (j, n) }
  | none => l

/-- What a thread's access expects of its packet. -/
def PeerReq.dsts (q : PeerReq) (j : Nat) : List (Nat × Option Nat × Nat × Nat) :=
  match q.kind with | .store => [] | _ => [(j, q.dst, peerVa q.addr % 128, q.size)]

/-- The access joins a packet of its instruction. -/
def State.joinPacket (s : State) (e : SendEnt) (j : Nat) (q : PeerReq) : State :=
  s.updFab fun f => { f with
    sendQ := upd (fun x => decide (x.id = e.id)) (fun x => match x.item with
      | .packet p => { x with item := .packet { p with
          mask := p.mask ||| q.mask
          data := patch p.data (peerVa q.addr % 128) q.data
          addr := min p.addr (peerVa q.addr) } }
      | .marker _ => x) f.sendQ
    waits := upd (fun w => decide (w.id = e.id)) (fun w => { w with dsts := w.dsts ++ q.dsts j }) f.waits }

/-- The number under which Fabric.traffic lists a source die and a destination. -/
def trafficNo (die pkg ddie : Nat) : Nat := 2 * (2 * pkg + ddie) + die

/-- A packet enters a send queue with the queue's next SEQ (R333, R336). -/
def State.enqueue (s : State) (e : SendEnt) (p : Packet) : State :=
  let qn := queueNo e.die e.pkg e.ddie e.cls
  let no := trafficNo e.die e.pkg e.ddie
  s.updFab fun f => { f with
    sendQ := f.sendQ ++ [{ e with item := .packet p }]
    seqs := tset 0 f.seqs qn ((p.seq + 1) % 2 ^ 23)
    traffic := if f.traffic.contains no then f.traffic else no :: f.traffic }

/-- Enters a thread's peer access into the send queue of its destination: the line's next instruction may follow at once. A store or
an atomic waits for earlier global writes to be translated, a contribution also for earlier peer writes to be confirmed (R196); the room
is asked for the packets of all the threads that are to come (R335); the loads of one instruction, which its packets gather, do not wait
for one another (R176, R334). (DEDUCED and DESIGN CHOICE, assumptions 14, 77, 94.) -/
def peerIssue (i : Instr) (s : State) (l : Line) (j : Nat) (srcs : List Nat) (req : Nat → PeerReq) : TRes :=
  let q := req j
  let pkg := peerPkg q.addr
  let ddie := peerDie q.addr
  let die := coreDie l.core
  let cls := s.classOf l.ref
  let begun := s.fab.sendQ.any fun e => e.ofInstr l
  match s.fab.sendQ.find? (gathers l q) with
  | some e => .ok (s.joinPacket e j q) (l.pendPeer j q)
  | none =>
    if (!begun || decide (q.ty = 4)) && (s.acquiring l.ref || (decide (q.kind ≠ .store) && s.awaitsTag l)) then .wait s .acquire
    else if !s.reachable l.part pkg ddie then .trap { cls := 0x0F, addr := q.addr, peer := pkg * 2 + ddie }
    else if s.walking l.ref || (q.red && s.unconfirmed l.ref) then .wait s .confirm
    else if !begun && !s.sendRoom die l.part (instrBytes l srcs req j) then .wait s .sendRoom
    else
      let seq := tget 0 s.fab.seqs (queueNo die pkg ddie cls)
      let p : Packet := { ty := q.ty, dpkg := pkg, ddie, spkg := s.pkg.domid, sdie := die, rly := false, enc := false, cls,
                          dlen := 0, seq, addr := peerVa q.addr, aux := q.aux, mask := q.mask, ext := q.ext,
                          data := patch (List.replicate 128 0) (peerVa q.addr % 128) q.data }
      let w : PeerWait := { id := s.nextId, die, pkg, ddie, cls, seq, issuer := l.ref, kind := q.kind, dsts := q.dsts j, sx := q.sx,
                            acq := q.acq, rel := q.rel, red := q.red, va := q.addr, pc := l.pc, word := iword i, done := none, elem := j }
      .ok { ((s.enqueue { die, pkg, ddie, cls, item := .packet p, part := l.part, held := q.rel, issuer := some l.ref, id := s.nextId,
                          ino := l.issueNo, sent := false, notBefore := 0 } p).updFab fun f => { f with waits := f.waits ++ [w] }) with
            nextId := s.nextId + 1 } (l.pendPeer j q)

/-- The fields of a destination word (R287): package and die, or `none` for a word that breaks its map. -/
def destWord (w : Word) : Option (Nat × Nat) := if fld w 13 19 ≠ 0 then none else some (fld w 0 12, fld w 12 1)

end Sys2Proof.Machine
end

