-- ==== Sys2Proof/Machine/Stair.lean ====
section
/-!
DEFINITION. The stair (05_stair_summation.md): the descriptor, the sum of one level, leveled, CHAIN, asymmetric and integer
sums of one tile element, and what the swamping monitors count.
-/
namespace Sys2Proof.Machine

/-! ### The descriptor (R130 to R136) -/

/-- A descriptor in effect. -/
structure Stair where
  chain : Bool
  tl : Nat
  w0 : Nat
  a0 : Bool
  n1 : Nat
  w1 : Nat
  a1 : Bool
  n2 : Nat
  w2 : Nat
  a2 : Bool
  l3f : Bool
  mx : Bool
  grp : Nat
deriving DecidableEq, Repr

/-- The field D1.DEF. -/
def stairDef (d1 : Word) : Bool := bit d1 5

/-- The default descriptor words of an element type (R136). -/
def defaultStair : Ty → Word × Word
  | .e4m3 | .e5m2 => (0x10320331, 0)
  | .e2m1 => (0x10120322, 4)
  | .bf16 | .f16 => (0xC03C03C1, 0)
  | .f32 => (0xC03C07C0, 0)
  | .f64 => (0, 1)
  | _ => (0, 0)

/-- The fields of an explicit descriptor (R131, R132). -/
def stairOf (d0 d1 : Word) : Stair :=
  { chain := bit d1 0, tl := 2 ^ (fld d0 0 3 + 1), w0 := nth 12 [12, 16, 20, 24, 32] (fld d0 4 3), a0 := bit d0 7,
    n1 := fld d0 8 6 + 1, w1 := fld d0 14 5 + 16, a1 := bit d0 19, n2 := fld d0 20 6 + 1, w2 := fld d0 26 5 + 24,
    a2 := bit d0 31, l3f := bit d1 1, mx := bit d1 2, grp := 32 * 2 ^ fld d1 3 2 }

/-- The descriptor in effect for a type: the default one when DEF is 1. -/
def stairFor (d0 d1 : Word) (ty : Ty) : Stair :=
  if stairDef d1 then stairOf (defaultStair ty).1 (defaultStair ty).2 else stairOf d0 d1

/-- SETSTAIR's checks (R133). -/
def stairIllegal (d0 d1 : Word) : Bool :=
  bit d0 3 || decide (fld d1 6 26 ≠ 0) ||
  (!stairDef d1 &&
    (decide (4 < fld d0 0 3) || decide (4 < fld d0 4 3) || decide (16 < fld d0 14 5) || decide (16 < fld d0 26 5) ||
     decide (fld d1 3 2 = 3) || (bit d1 0 && bit d1 2) ||
     (bit d1 2 && decide (2 ^ (fld d0 0 3 + 1) * (fld d0 8 6 + 1) % 32 ≠ 0))))

def Ty.isFloat : Ty → Bool
  | .f32 | .f64 | .f16 | .bf16 | .e4m3 | .e5m2 | .e2m1 | .e8m0 => true
  | _ => false

/-- The check of R134 at an MMA or MMAS. -/
def stairUnfit (d1 : Word) (ty : Ty) : Bool :=
  !stairDef d1 && Ty.isFloat ty &&
    ((bit d1 0 && !(decide (ty = .f32) || decide (ty = .f64))) ||
     (bit d1 2 && !(decide (ty = .e4m3) || decide (ty = .e5m2) || decide (ty = .e2m1))) ||
     (decide (ty = .e2m1) && !bit d1 2) ||
     (decide (ty = .f64) && !bit d1 0 && !bit d1 1))

/-! ### Counting -/

/-- The 1-bits of a natural. -/
def popCount (n : Nat) : Nat := (List.range (Nat.log2 n + 1)).countP fun i => n.testBit i

/-- What one level of one sum counts: bits and events (R139). -/
abbrev Counts := List (Nat × Nat)
def Counts.zero : Counts := [(0, 0), (0, 0), (0, 0), (0, 0)]
def Counts.at (l bits events : Nat) : Counts := Counts.zero.set l (bits, events)
def Counts.add (a b : Counts) : Counts := List.zipWith (fun x y => (x.1 + y.1, x.2 + y.2)) a b

/-- A list cut into groups of n (R120); the last may be shorter. -/
def chunksFuel {α : Type} (n : Nat) : Nat → List α → List (List α)
  | 0, _ => []
  | _ + 1, [] => []
  | f + 1, l => l.take n :: chunksFuel n f (l.drop n)
def chunks {α : Type} (n : Nat) (l : List α) : List (List α) := chunksFuel n l.length l

/-! ### One level (R121, R122, R124) -/

/-- The outcome of a sum: value, counts, flags. -/
structure Sum where
  v : FV
  cnt : Counts
  fl : Flags
deriving DecidableEq, Repr

/-- The default NaN as a value. -/
def FV.defNan : FV := .nan false false 0 0

/-- One input aligned to the quantum 2^u: kept units with sign, discarded bits, whether any were discarded. -/
def alignOne (rne : Bool) (u : Int) (a : Ex) : Int × Nat × Nat :=
  let o := a.over u
  let lo := o.1 / o.2
  let d := o.1 % o.2
  let kept := if rne && (decide (o.2 < 2 * d) || (decide (2 * d = o.2) && decide (lo % 2 = 1))) then lo + 1 else lo
  (if a.neg then -(kept : Int) else kept, if d = 0 then 0 else popCount d, if d = 0 then 0 else 1)

/-- The nonzero reals of a group. -/
def reals (vs : List FV) : List Ex :=
  vs.filterMap fun v => match v with | .fin e => if e.num = 0 then none else some e | _ => none

/-- The sum of one group at level l with width w (R121), specials first (R124). -/
def levelSum (l w : Nat) (rne : Bool) (vs : List FV) : Sum :=
  match vs.find? FV.isNan with
  | some n => { v := n, cnt := Counts.zero, fl := 0 }
  | none =>
    let pos := vs.any fun v => decide (v = .inf false)
    let neg := vs.any fun v => decide (v = .inf true)
    if pos && neg then { v := .defNan, cnt := Counts.zero, fl := fV }
    else if pos || neg then { v := .inf neg, cnt := Counts.zero, fl := 0 }
    else
      match (reals vs).map Ex.log2 with
      | [] => { v := .fin (Ex.zero false), cnt := Counts.zero, fl := 0 }
      | e :: es =>
        let u := es.foldl max e - w + 1
        let parts := (reals vs).map (alignOne rne u)
        let t : Int := (parts.map (·.1)).foldl (· + ·) 0
        let ev := (parts.map (·.2.2)).foldl (· + ·) 0
        { v := .fin { neg := decide (t < 0), num := t.natAbs, den := 1, exp := u }
          cnt := Counts.at l ((parts.map (·.2.1)).foldl (· + ·) 0) ev
          fl := if ev = 0 then 0 else fI }

/-- Counts of one rounding at a level: when its flags say that it was inexact, one event and the 1-bits of |a| below the quantum (R123). -/
def roundCounts (l : Nat) (f : Fmt) (a : Ex) (fl : Flags) : Counts :=
  if fl &&& fI = 0 then Counts.zero
  else
    let o := a.over (max a.log2 f.emin - f.p + 1)
    Counts.at l (popCount (o.1 % o.2)) 1

/-- Landing 3: one landing 2 result added to the tile element (R123). -/
def landing3 (f : Fmt) (z : Nat) (s : FV) : Nat × Counts × Flags :=
  match s with
  | .fin e =>
    if e.num = 0 then (z, Counts.zero, 0)
    else
      let r := addFV f .rne (f.value z) s
      (r.1, (match f.value z with | .fin a => roundCounts 3 f (a.add e false) r.2 | _ => Counts.zero), r.2)
  | _ => let r := addFV f .rne (f.value z) s; (r.1, Counts.zero, r.2)

/-- One product (R124): exact, or special. A signalling NaN in either place raises V (R94), also behind a quiet one. (DEDUCED, assumption 63.) -/
def product (a b : FV) : FV × Flags :=
  match a, b with
  | .nan n s p q, b => (.nan n false p q, if s || b.isSig then fV else 0)
  | _, .nan n s p q => (.nan n false p q, if s then fV else 0)
  | a, b => match a.mul b with | some v => (v, 0) | none => (.defNan, fV)

/-- Result of the sum of one element: the new element's code, counts, flags. -/
structure ElemSum where
  z : Nat
  cnt : Counts
  fl : Flags
deriving DecidableEq, Repr

/-- The leveled stair of one element (R119 to R126): `ps` the products in ascending K, `sc` the exponent offset of each
32-product block. -/
def leveled (st : Stair) (f : Fmt) (z : Nat) (ps : List FV) (sc : List Int) : ElemSum :=
  let treads := (chunks st.tl ps).map (levelSum 0 st.w0 st.a0)
  let scaled := treads.zipIdx.map fun p =>
    match p.1.v with
    | .fin e => .fin (e.scale (nth 0 sc (p.2 * st.tl / 32)))
    | v => v
  let l1 := (chunks st.n1 scaled).map (levelSum 1 st.w1 st.a1)
  let l2 := (chunks st.n2 (l1.map (·.v))).map (levelSum 2 st.w2 st.a2)
  let low := treads ++ l1 ++ l2
  (l2.map (·.v)).foldl (fun acc s =>
      let r := landing3 f acc.z s
      { z := r.1, cnt := Counts.add acc.cnt r.2.1, fl := acc.fl ||| r.2.2 })
    { z := z, cnt := (low.map (·.cnt)).foldl Counts.add Counts.zero, fl := (low.map (·.fl)).foldl (· ||| ·) 0 }

/-- CHAIN mode (R129): a fused multiply-add per position. -/
def chained (f : Fmt) (z : Nat) (ab : List (FV × FV)) : ElemSum :=
  ab.foldl (fun acc p =>
      let r := fmaFV f .rne p.1 p.2 (f.value acc.z) false
      let c := match p.1.mul p.2, f.value acc.z with
        | some (.fin x), .fin y => if (nanResult f [p.1, p.2]).isNone then roundCounts 3 f (x.add y false) r.2 else Counts.zero
        | _, _ => Counts.zero
      { z := r.1, cnt := Counts.add acc.cnt c, fl := acc.fl ||| r.2 })
    { z := z, cnt := Counts.zero, fl := 0 }

/-- Asymmetric groups (R106, R127): `gs` gives for each group the signed codes of A, the codes of B and the group word;
`i4` selects the width of the zero point. -/
def asymmetric (i4 : Bool) (z : Nat) (gs : List (List Int × List Nat × Word)) : ElemSum :=
  gs.foldl (fun acc g =>
      let zp : Nat := if i4 then fld g.2.2 16 4 else fld g.2.2 16 8
      let dot := (List.zipWith (fun (a : Int) (b : Nat) => a * b) g.1 g.2.1).foldl (· + ·) 0
      let sg : Int := dot - zp * g.1.foldl (· + ·) 0
      let s := Fmt.f16.value (fld g.2.2 0 16)
      let pr := mulFV .f32 .rne (.fin (Ex.ofInt sg)) s
      let c2 := match s with | .fin e => roundCounts 2 .f32 ((Ex.ofInt sg).mul e) pr.2 | _ => Counts.zero
      let r := addFV .f32 .rne (Fmt.f32.value acc.z) (Fmt.f32.value pr.1)
      let c3 := match Fmt.f32.value acc.z, Fmt.f32.value pr.1 with
        | .fin a, .fin b => roundCounts 3 .f32 (a.add b false) r.2
        | _, _ => Counts.zero
      { z := r.1, cnt := Counts.add acc.cnt (Counts.add c2 c3), fl := acc.fl ||| pr.2 ||| r.2 })
    { z := z, cnt := Counts.zero, fl := 0 }

/-- Integer accumulation (R128). -/
def integerSum (isat : Bool) (z : Nat) (ps : List Int) : ElemSum :=
  { z := (BitVec.ofInt 32 (ps.foldl (fun acc p => intResult isat (acc + p) 32 true) (BitVec.ofNat 32 z).toInt)).toNat
    cnt := Counts.zero, fl := 0 }

/-- The sum of exact contributions in rank order (R144), into +0.0 in FP32. Its flags have no line to go to. (DESIGN CHOICE, assumption 64.) -/
def reduceF32 (d0 d1 : Word) (vs : List Word) : ElemSum :=
  let xs := vs.map fun w => Fmt.f32.value w.toNat
  let st := stairFor d0 d1 .f32
  if st.chain then chained .f32 0 (xs.map fun x => (x, .fin { neg := false, num := 1, den := 1, exp := 0 }))
  else leveled st .f32 0 (xs.map fun x => (product x (.fin { neg := false, num := 1, den := 1, exp := 0 })).1) []

end Sys2Proof.Machine
end

