-- ==== Sys2Proof/Machine/Mem.lean ====
section
/-!
DEFINITION. Meanings of the memory and synchronisation instructions (R257 to R277, R285 to R288): what each does at issue.
Banks, slices and network units perform the accesses in steps of their own (Bank.lean, Slice.lean, Fabric.lean).
-/
namespace Sys2Proof

def Width.bytes : Width → Nat
  | .b => 1 | .h => 2 | .w => 4 | .d => 8

def Ordering.isAcq : Ordering → Bool
  | .acq | .acqrel => true
  | _ => false
def Ordering.isRel : Ordering → Bool
  | .rel | .acqrel => true
  | _ => false

end Sys2Proof

namespace Sys2Proof.Machine

/-! ### Local addresses (R145, R148, R149, R156, R257) -/

/-- The window and offset that a scratchpad or gallery address names, or the class of its first fault: form, alignment,
window. -/
def State.localAddr (s : State) (l : Line) (gal : Bool) (addr size : Nat) : Except Nat (CSet × Nat) :=
  if (if gal then decide (0x800000 ≤ addr) else decide (0x100000 ≤ addr)) then .error 0x04
  else if addr % size ≠ 0 then .error 0x05
  else
    match s.cset (setOf l.ref) with
    | none => .error 0x06
    | some c =>
      match s.spadElem c (if gal then 2 else 1) addr with
      | none => .error 0x06
      | some m => .ok m

/-- The register of a load is pending until LOAD_RETURN (R27). -/
def Line.pendDst (l : Line) (j : Nat) (dst : Option Nat) (dbl : Bool) : Line :=
  match dst with
  | none => l
  | some d => { l with pend := l.pend ++ (regs dbl d).map fun n => (j, n) }

/-- The destination of a load; x0 discards (R264). -/
def dstOf (d : Fld) : Option Nat := if d.num = 0 then none else some d.num

/-! ### LDS, LDGAL, STS, STGAL -/

/-- The 32-bit address of a local access (R257). -/
def localVa (l : Line) (j : Nat) (a b : Fld) : Nat := (l.x j a.num + l.kr b.num).toNat

/-- One thread of a local load: it joins or opens a `.take` run (R153) and enters the bank's queue. -/
def loadLocal (i : Instr) (gal : Bool) (t : TagMode) (wd : Width) (sx : Bool) (d a b : Fld) (s : State) : Out :=
  perThread i (fun l => l.okXf (decide (wd = .d)) d && l.okXf false a && l.okKf false b) anyTy
    (fun s l j => ready s l j (a.xregs false ++ d.xregs (decide (wd = .d))) (b.xregs false) <|
      match s.localAddr l gal (localVa l j a b) wd.bytes with
      | .error c => .trap { cls := c, addr := localVa l j a b }
      | .ok (m, off) =>
        if s.readsHeld l then .wait s .acquire
        else if t = .take ∧ s.unconfirmed l.ref then .wait s .confirm
        else
          let open_ : Option Nat := match l.takeRun with
            | some run => if run.set = m.ref ∧ run.gran = off / 16 then some run.id else none
            | none => none
          let q (run : Nat) : BankReq :=
            { set := m.ref, id := 0, issuer := l.ref, thread := j, off, size := wd.bytes,
              op := .load (if t = .acq then .any else t) (dstOf d) sx (decide (t = .acq)), val := 0, run, pc := l.pc, word := iword i, ino := l.issueNo, gal }
          let l' := l.pendDst j (dstOf d) (decide (wd = .d))
          if t ≠ .take then enterBank s l' m (q 0)
          else
            match open_ with
            | some id => enterBank s l' m (q id)
            | none =>
              if l.takeRun.isSome && s.stopping l.ref then .done ((s.endRun l).setLine { l with takeRun := none, status := .ready, tri := j }) else
              let s' := s.endRun l
              match enterBank { s' with nextId := s'.nextId + 1 }
                  { l' with takeRun := some { set := m.ref, gran := off / 16, id := s'.nextId } } m (q s'.nextId) with
              | .wait _ w => .wait s w
              | r => r) s

/-- One thread of a local store (R265). -/
def storeLocal (i : Instr) (gal : Bool) (rel : Option Scope) (fill : Bool) (wd : Width) (d a b : Fld) (s : State) : Out :=
  perThread i (fun l => l.okXf (decide (wd = .d)) d && l.okXf false a && l.okKf false b) anyTy
    (fun s l j => ready s l j (a.xregs false ++ d.xregs (decide (wd = .d))) (b.xregs false) <|
      match s.localAddr l gal (localVa l j a b) wd.bytes with
      | .error c => .trap { cls := c, addr := localVa l j a b }
      | .ok (m, off) =>
        if s.acquiring l.ref then .wait s .acquire
        else if s.barPending m.ref (off / 16) then .wait s (.order m.ref (off / 16))
        else if m.isMark (off / 16) then .trap { cls := 0x0A, addr := localVa l j a b }
        else if s.unconfirmed l.ref then .wait s .confirm
        else
          enterBank s l m {
            set := m.ref, id := 0, issuer := l.ref, thread := j, off, size := wd.bytes, op := .store fill rel,
            val := (if wd = .d then (l.xd j d.num).toNat else (l.x j d.num).toNat) % 2 ^ (8 * wd.bytes), run := 0, pc := l.pc,
            word := iword i, gal }) s

def execLds (t : TagMode) (wd : Width) (sx : Bool) (d a b : Fld) (s : State) : Out :=
  loadLocal (.lds t wd sx d a b) false t wd sx d a b s
def execLdgal (t : TagMode) (wd : Width) (sx : Bool) (d a b : Fld) (s : State) : Out :=
  loadLocal (.ldgal t wd sx d a b) true t wd sx d a b s
def execSts (rel : Option Scope) (fill : Bool) (wd : Width) (d a b : Fld) (s : State) : Out :=
  storeLocal (.sts rel fill wd d a b) false rel fill wd d a b s
def execStgal (rel : Option Scope) (fill : Bool) (wd : Width) (d a b : Fld) (s : State) : Out :=
  storeLocal (.stgal rel fill wd d a b) true rel fill wd d a b s

/-! ### LDG, STG, LDP, STP -/

/-- The record of a value that carries an uncorrectable error (R411). -/
def badData (l : Line) (addr : Nat) (pc word : Word) (thread tick : Nat) : Rec :=
  FaultInfo.record { cls := 0x14, addr, elem := thread } l thread pc word tick

/-- What this load's instruction has already fetched of a line, or the L1 copy: the bytes and the bad words (R164, R259, R411). -/
def State.cached (s : State) (l : Line) (ln : Nat) : Option (List Byte × List Nat) :=
  match l.fetched.find? fun e => decide (e.1 = ln) with
  | some e => some e.2
  | none => (s.l1Hit l.core ln).map fun e => (e.bytes, e.bad)

/-- A global load of thread j: an L1 copy gives its value now; otherwise it travels to its slice or to the host. -/
def loadGlobal (i : Instr) (s : State) (l : Line) (j va size : Nat) (dst : Option Nat) (sx acq : Bool) : TRes :=
  let acc (place : Place) (phase : AccPhase) (val : Nat) (trans : List TabRef) (s : State) (failed : Option Rec := none) : State :=
    { s with
      flight := s.flight ++ [{
        set := l.ref.set, id := s.nextId, issuer := .line l.ref j, part := l.part, grid := l.ref.grid, core := l.core,
        kind := .load, phase, va, place, size, val, cmp := 0, dst, sx, acq, rel := none, staged := false, prov := false,
        ino := l.issueNo, pc := l.pc, word := iword i, check := [], trans, failed }]
      nextId := s.nextId + 1 }
  let l' := l.pendDst j dst (decide (size = 8))
  if s.readsHeld l then .wait s .acquire
  else if s.walking l.ref then .wait s .confirm
  else
    match s.translate (some l.core) (coreDie l.core) l.part false va false l.user with
    | .miss => let w := s.startWalk (some l.core) (coreDie l.core) l.part false va false l.user; .wait w.2 (.walk w.1)
    | .fault c => .trap { cls := c, addr := va }
    | .hit (.spad ..) _ => .trap { cls := 0x08, addr := va }
    | .hit (.host a) t => .ok (acc (.host a) .sent 0 t s) l'
    | .hit (.dev ca) t =>
      match (if acq || s.ownPending l.ref (.dev ca) size then none else s.cached l (lineOf ca)) with
      | some copy =>
        if meetsBad copy.2 (ca % 128) size then
          .ok (acc (.dev ca) (.performed 0) 0 t s (some { (badData l va l.pc (iword i) j s.time) with uid := s.nextId })) l'
        else .ok (acc (.dev ca) (.performed 0)
          (leNat (s.overlay l.ref s.nextId (.dev ca) ((copy.1.drop (ca % 128)).take size))) t s) l'
      | none => .ok (acc (.dev ca) .sent 0 t s) l'

/-- The address checks of a global access: form, then alignment (R145, R257). -/
def globalForm (va size : Nat) : Option Nat :=
  if 2 ^ 57 ≤ va then some 0x04 else if va % size ≠ 0 then some 0x05 else none

def execLdg (acq : Bool) (wd : Width) (sx : Bool) (d a b : Fld) (s : State) : Out :=
  perThread (.ldg acq wd sx d a b) (fun l => l.okXf (decide (wd = .d)) d && l.okXf true a && l.okKf false b) anyTy
    (fun s l j => ready s l j (a.xregs true ++ d.xregs (decide (wd = .d))) (b.xregs false) <|
      match globalForm (farVa l j a b) wd.bytes with
      | some c => .trap { cls := c, addr := farVa l j a b }
      | none => loadGlobal (.ldg acq wd sx d a b) s l j (farVa l j a b) wd.bytes (dstOf d) sx acq) s

/-- The data of a store: low bytes of x(d), or the pair (R258). -/
def storeData (l : Line) (j : Nat) (wd : Width) (d : Fld) : Nat :=
  (if wd = .d then (l.xd j d.num).toNat else (l.x j d.num).toNat) % 2 ^ (8 * wd.bytes)

def execStg (rel : Option Scope) (wd : Width) (d a b : Fld) (s : State) : Out :=
  perThread (.stg rel wd d a b) (fun l => l.okXf (decide (wd = .d)) d && l.okXf true a && l.okKf false b) anyTy
    (fun s l j => ready s l j (a.xregs true ++ d.xregs (decide (wd = .d))) (b.xregs false) <|
      match globalForm (farVa l j a b) wd.bytes with
      | some c => .trap { cls := c, addr := farVa l j a b }
      | none => storeGlobal (.stg rel wd d a b) s l j
          { kind := .store, va := farVa l j a b, size := wd.bytes, val := storeData l j wd d, rel }) s

def execLdp (acq : Bool) (wd : Width) (sx : Bool) (d a b : Fld) (s : State) : Out :=
  perThread (.ldp acq wd sx d a b) (fun l => l.okXf (decide (wd = .d)) d && l.okXf true a && l.okKf false b) anyTy
    (fun s l j => ready s l j (a.xregs true ++ d.xregs (decide (wd = .d))) (b.xregs false) <|
      if farVa l j a b % wd.bytes ≠ 0 then .trap { cls := 0x05, addr := farVa l j a b }
      else peerIssue (.ldp acq wd sx d a b) s l j (a.xregs true) fun j =>
          { ty := 2, kind := .load, addr := farVa l j a b, size := wd.bytes, dst := dstOf d, sx, acq }) s

def execStp (rel : Option Scope) (wd : Width) (d a b : Fld) (s : State) : Out :=
  perThread (.stp rel wd d a b) (fun l => l.okXf (decide (wd = .d)) d && l.okXf true a && l.okKf false b) anyTy
    (fun s l j => ready s l j (a.xregs true ++ d.xregs (decide (wd = .d))) (b.xregs false) <|
      if farVa l j a b % wd.bytes ≠ 0 then .trap { cls := 0x05, addr := farVa l j a b }
      else peerIssue (.stp rel wd d a b) s l j (a.xregs true) fun j =>
          { ty := 1, kind := .store, addr := farVa l j a b, size := wd.bytes,
            data := bytesOf (storeData l j wd d) wd.bytes, rel }) s

/-! ### Atomics (R266 to R268) -/

/-- The types that an operation accepts (R266). -/
def atomTypes (op : AtomOp) (ty : Ty) : Bool :=
  match op, ty with
  | .add, .s32 | .add, .n32 | .add, .s64 | .add, .n64 => true
  | .min, .s32 | .min, .n32 | .min, .s64 | .min, .n64 => true
  | .max, .s32 | .max, .n32 | .max, .s64 | .max, .n64 => true
  | .fadd, .f32 | .fadd, .f64 | .fmin, .f32 | .fmin, .f64 | .fmax, .f32 | .fmax, .f64 => true
  | .and, t | .or, t | .xor, t | .xchg, t | .cas, t => t.isInt && decide (32 ≤ t.bits) || decide (t = .f32) || decide (t = .f64)
  | _, _ => false

/-- A w-bit number read as signed. -/
def signedOf (v w : Nat) : Int := (BitVec.ofNat w v).toInt

/-- What an atomic writes (R267); `none` for a compare-and-swap that fails. -/
def atomNew (op : AtomOp) (ty : Ty) (old b d : Nat) : Option Nat :=
  let w := ty.bits
  let less (x y : Nat) : Bool := if ty.sgn then decide (signedOf x w < signedOf y w) else decide (x < y)
  match op with
  | .add => some ((old + b) % 2 ^ w)
  | .min => some (if less b old then b else old)
  | .max => some (if less old b then b else old)
  | .and => some (old &&& b)
  | .or => some (old ||| b)
  | .xor => some (old ^^^ b)
  | .xchg => some b
  | .cas => if old = d then some b else none
  | .fadd => some (addFV ty.fmt .rne (ty.fmt.value old) (ty.fmt.value b)).1
  | .fmin => some (fminmax ty.fmt false old b).1
  | .fmax => some (fminmax ty.fmt true old b).1

/-- Operands of an atomic: B, and for cas the compare value D. -/
def atomOperand (l : Line) (j : Nat) (f : Fld) : Nat := if l.ty.dbl then (l.xd j f.num).toNat else (l.x j f.num).toNat

/-- A per-thread atomic: checks and readiness, with the address width of its space. -/
def atomForm (i : Instr) (op : AtomOp) (far : Bool) (d a b : Fld) (f : State → Line → Nat → TRes) (s : State) : Out :=
  perThread i (fun l => l.okXf l.ty.dbl d && l.okXf far a && l.okXf l.ty.dbl b) (fun l => atomTypes op l.ty)
    (fun s l j => ready s l j (a.xregs far ++ b.xregs l.ty.dbl ++ d.xregs l.ty.dbl) [] (f s l j)) s

def atomLocal (i : Instr) (gal : Bool) (op : AtomOp) (o : Ordering) (d a b : Fld) (s : State) : Out :=
  atomForm i op false d a b (fun s l j =>
    let va := (l.x j a.num).toNat
    match s.localAddr l gal va (l.ty.bits / 8) with
    | .error c => .trap { cls := c, addr := va }
    | .ok (m, off) =>
      if s.readsHeld l then .wait s .acquire
      else if s.barPending m.ref (off / 16) then .wait s (.order m.ref (off / 16))
      else if m.isMark (off / 16) then .trap { cls := 0x0A, addr := va }
      else if s.unconfirmed l.ref then .wait s .confirm
      else
        enterBank s (l.pendDst j (dstOf d) l.ty.dbl) m {
          set := m.ref, id := 0, issuer := l.ref, thread := j, off, size := l.ty.bits / 8,
          op := .atomic op l.ty (dstOf d) (atomOperand l j d) (if o.isRel then some (if gal then .hall else .set) else none) o.isAcq,
          val := atomOperand l j b, run := 0, pc := l.pc, word := iword i, gal }) s

def execAts (op : AtomOp) (o : Ordering) (d a b : Fld) (s : State) : Out := atomLocal (.ats op o d a b) false op o d a b s
def execAtgal (op : AtomOp) (o : Ordering) (d a b : Fld) (s : State) : Out := atomLocal (.atgal op o d a b) true op o d a b s

def execAtg (op : AtomOp) (o : Ordering) (d a b : Fld) (s : State) : Out :=
  atomForm (.atg op o d a b) op true d a b (fun s l j =>
    match globalForm (l.xd j a.num).toNat (l.ty.bits / 8) with
    | some c => .trap { cls := c, addr := (l.xd j a.num).toNat }
    | none => storeGlobal (.atg op o d a b) s l j
        { kind := .atomic op l.ty, va := (l.xd j a.num).toNat, size := l.ty.bits / 8, val := atomOperand l j b,
          cmp := atomOperand l j d, dst := dstOf d, acq := o.isAcq, rel := if o.isRel then some .dev else none }) s

/-- A peer atomic: operands B and D in its extension, operation and width in AUX (R333, R334). -/
def execAtp (op : AtomOp) (o : Ordering) (d a b : Fld) (s : State) : Out :=
  atomForm (.atp op o d a b) op true d a b (fun s l j =>
    let va := (l.xd j a.num).toNat
    if va % (l.ty.bits / 8) ≠ 0 then .trap { cls := 0x05, addr := va }
    else peerIssue (.atp op o d a b) s l j (a.xregs true) fun j =>
      { ty := 4, kind := .atomic op l.ty, addr := (l.xd j a.num).toNat, size := l.ty.bits / 8,
        ext := bytesOf (atomOperand l j b) 8 ++ bytesOf (atomOperand l j d) 8,
        aux := op.code + (if l.ty.dbl then 3 else 2) * 16, dst := dstOf d, acq := o.isAcq,
        rel := if o.isRel then some .dom else none }) s

/-! ### REDP (R285, R286) -/

/-- A reduction word's field map: the must-be-zero bits and RANK at most NRM. -/
def redWordOk (w : Word) : Bool := decide (fld w 24 8 = 0) && decide (fld w 0 12 ≤ fld w 12 12)

/-- A landing of level 3 that is not FP32, or microscaling, in an explicit descriptor (R286). -/
def redStairIllegal (l : Line) : Bool :=
  decide (l.ty = .f32) && !stairDef l.d1 && ((stairOf l.d0 l.d1).mx || (stairOf l.d0 l.d1).l3f)

/-- REDP (R285): of several faults of a thread the reduction word's comes first, then the descriptor's, then the alignment's.
(DESIGN CHOICE, assumption 91.) -/
def execRedp (d a b : Fld) (s : State) : Out :=
  perThread (.redp d a b) (fun l => l.okXf false d && l.okXf true a && l.okKf false b)
    (fun l => decide (l.ty = .f32) || decide (l.ty = .s32))
    (fun s l j => ready s l j (d.xregs false ++ a.xregs true) (b.xregs false) <|
      let va := (l.xd j a.num).toNat
      if !redWordOk (l.kr b.num) then .trap { cls := 0x10 }
      else if redStairIllegal l then .trap { cls := 0x12 }
      else if va % 4 ≠ 0 then .trap { cls := 0x05, addr := va }
      else peerIssue (.redp d a b) s l j (a.xregs true) fun j =>
        { ty := 6, kind := .store, addr := (l.xd j a.num).toNat, size := 4, data := bytesOf (l.x j d.num).toNat 4,
          ext := bytesOf l.d0.toNat 4 ++ bytesOf l.d1.toNat 4 ++ bytesOf (l.kr b.num).toNat 4 ++ bytesOf (fld l.lmode 4 5) 4,
          red := true }) s

/-! ### FDRAIN, SQSTAT (R287, R288) -/

/-- FDRAIN enters a marker at the tail of the send queue of the line's class. -/
def execFdrain (a : Fld) (s : State) : Out :=
  uniform (.fdrain a) (fun l => l.okKf false a) anyTy
    (fun s l => match l.pendingK (a.xregs false) with
      | some n => .wait s (.kreg n)
      | none =>
        match destWord (l.kr a.num) with
        | none => .trap { cls := 0x10 }
        | some (pkg, ddie) =>
          if s.acquiring l.ref then .wait s .acquire
          else if s.unconfirmed l.ref then .wait s .confirm
          else .ok { (s.updFab fun f => { f with sendQ := f.sendQ ++ [{
                die := coreDie l.core, pkg, ddie, cls := s.classOf l.ref, item := .marker l.ref, part := l.part, held := none,
                issuer := some l.ref, id := s.nextId, ino := l.issueNo, sent := false, notBefore := 0 }] }) with
              nextId := s.nextId + 1 } l) s

/-- Entries of the two queues of a destination that the lines of a die fill. -/
def State.destQ (s : State) (die pkg ddie : Nat) : List SendEnt :=
  s.fab.sendQ.filter fun e => decide (e.die = die) && decide (e.pkg = pkg) && decide (e.ddie = ddie) && decide (e.cls < 2)

/-- The key in force for sending to a destination on a figure-mode or a packet-mode port (R350, R367); the one bound, when that in force has been
revoked (R418). -/
def State.sendKey (s : State) (part pkg ddie : Nat) (packet : Bool) : Option KeyEnt :=
  match (s.part part).binds.find? fun b => decide (b.peer = 2 * pkg + ddie) with
  | none => none
  | some b =>
    let key (h : Nat) : Option KeyEnt := (s.part part).keys.find? fun k => decide (k.handle = h)
    (key (if packet then b.pktHandle else b.sendHandle)).or (if (if packet then b.pktHandle else b.sendHandle) = 0 then none else key b.handle)

/-- The time base is not locked after READY, or the boundary at which data may leave again has not come (R425). -/
def State.clockHeld (s : State) (part : Nat) : Bool := (s.pkg.everReady && !s.pkg.tblock) || decide (s.time < (s.part part).resumeAt)
/-- Sending of data by figure-mode ports waits while allowances are held (R345), or while the time base holds it (R425). -/
def State.allowHeld (s : State) (part : Nat) : Bool := (s.part part).held || s.clockHeld part
/-- Sending of data by packet-mode ports waits only from the hold point to the epoch, where no port sends data (R431), and while the time base
holds it (R425); the hold of allowances beyond the epoch is the figure-mode ports' (R345). -/
def State.packetHeld (s : State) (part : Nat) : Bool := ((s.part part).held && (s.part part).commit.isSome) || s.clockHeld part

/-- Whether traffic has ever been queued for a destination on a die. -/
def State.everQueued (s : State) (die pkg ddie : Nat) : Bool := s.fab.traffic.contains (trafficNo die pkg ddie)

/-- Whether packets for a destination are encrypted: on its figure-mode ports, or, where none faces it, on packet-mode ports. -/
def State.encrypts (s : State) (part pkg ddie : Nat) : Bool :=
  decide (pkg ≠ s.pkg.domid) && (s.sendKey part pkg ddie (s.packetReaches part pkg && !s.figureReaches part pkg (some ddie))).isSome

/-- The bytes of the two send queues of a destination that no sent flit holds, tags included, each as the partition that queued it has a key; of a split
packet the unsent ones (R358). -/
def State.unsentBytes (s : State) (die pkg ddie : Nat) : Nat :=
  let size (e : SendEnt) : Nat := match e.item with | .packet p => Packet.size { p with enc := s.encrypts e.part pkg ddie } | .marker _ => 0
  (((s.destQ die pkg ddie).filter fun e => !e.sent).map size ++
    (s.fab.tx.filter fun t => decide (t.src = some (die, pkg, ddie))).map fun t => t.bytes.length).foldl (· + ·) 0

/-- The snapshot of R288, in flits of 236 bytes (R358). HELD tells what R345 and R425 hold; a destination to which nothing has been queued
reads zero but for UNR and RLY. (DEDUCED, assumption 62.) -/
def State.sqstat (s : State) (l : Line) (pkg ddie : Nat) : Word :=
  let qfl := min ((s.unsentBytes (coreDie l.core) pkg ddie + 235) / 236) 0xFFFFF
  let dm := (s.destQ (coreDie l.core) pkg ddie).any fun e => match e.item with | .marker _ => true | _ => false
  let relay := !s.direct l.part pkg ddie && s.reachable l.part pkg ddie
  let ever := s.everQueued (coreDie l.core) pkg ddie
  let held := if pkg = s.pkg.domid then (s.part l.part).held else s.allowHeld l.part
  let b (v : Bool) (n : Nat) : Nat := if v then 2 ^ n else 0
  BitVec.ofNat 32 (qfl + b dm 20 + b (ever && held) 21 + b (!s.reachable l.part pkg ddie) 22 + b relay 23 +
    b (ever && s.encrypts l.part pkg ddie) 24)

def execSqstat (d a : Fld) (s : State) : Out :=
  uniform (.sqstat d a) (fun l => l.okKf false d && l.okKf false a) anyTy
    (fun s l => match l.pendingK (a.xregs false ++ d.xregs false) with
      | some n => .wait s (.kreg n)
      | none =>
        match destWord (l.kr a.num) with
        | none => .trap { cls := 0x10 }
        | some (pkg, ddie) => .ok s (l.setK d.num (s.sqstat l pkg ddie))) s

/-! ### FENCE, QFENCE, IFENCE (R173, R187, R271) -/

/-- A fence whose conditions hold: an error that it covers, or the next instruction. -/
def fenceTake (sc : Scope) (s : State) (l : Line) : State :=
  match l.fenceFault sc with
  | some (f, l') => faultAt s l' (.fence sc) 0 f
  | none => s.finish l

def execFence (sc : Scope) (s : State) : Out :=
  onLine s fun l =>
    if s.fenceOk l sc s.nextId then .next (fenceTake sc s l) else .next (s.park l (.fence sc) 0)

/-- Whether the classes of a mask hold an operation that a QFENCE waits for: one that the line entered and that has neither
completed nor stopped (R184, R187). -/
def State.qfenceOk (s : State) (l : Line) (m : Nat) : Bool :=
  (s.copyQ.all fun c => !(decide (c.issuer = l.ref) && m.testBit c.queue) || c.state.isStopped ||
    s.copyQ.any fun h => decide (h.core = c.core) && decide (h.queue = c.queue) && h.state.isStopped) &&
  (!m.testBit 4 || s.drainQ.all fun o => !(decide (o.issuer = l.ref)) || o.state.isStopped ||
    s.drainQ.any fun h => decide (h.core = o.core) && h.state.isStopped) &&
  (!m.testBit 5 ||
    (s.fab.sendQ.all fun e => match e.item with | .marker r => decide (r ≠ l.ref) | _ => true) &&
    s.fab.waits.all fun w => !(decide (w.issuer = l.ref) && w.red) ||
      (match w.done with | some g => decide (g + Config.margin ≤ s.time) | none => false))

/-- Which coverage codes a QFENCE delivers (R174). -/
def qfenceCovers (m : Nat) (c : Nat) : Bool := decide (c < 6) && m.testBit c

def qfenceTake (m : BitVec 6) (s : State) (l : Line) : State :=
  match l.takeErr (qfenceCovers m.toNat) with
  | some (e, l') => faultAt s l' (.qfence m) 0 (asyncFault e)
  | none => s.finish l

def execQfence (m : BitVec 6) (s : State) : Out :=
  onLine s fun l =>
    if s.qfenceOk l m.toNat then .next (qfenceTake m s l) else .next (s.park l (.qfence m.toNat) 0)

/-- Every earlier access of the line performed at its point of coherence (R271). -/
def State.ifenceOk (s : State) (l : Line) : Bool :=
  (s.flight.all fun a => !a.open_ l.ref) && ((s.bankQ ++ s.waitQ).all fun q => decide (q.issuer ≠ l.ref)) &&
  s.fab.waits.all fun w => !(decide (w.issuer = l.ref) && w.done.isNone)

/-- IFENCE empties the core's instruction cache (R183, R271). -/
def ifenceTake (s : State) (l : Line) : State :=
  { s with icache := s.icache.filter fun e => decide (e.core ≠ l.core) }.finish l

def execIfence (s : State) : Out :=
  onLine s fun l => if s.ifenceOk l then .next (ifenceTake s l) else .next (s.park l .ifence 0)

/-! ### Barrier instructions (R272 to R276) -/

/-- The granule of a barrier address, or the class of its first fault: form, alignment with bit 0 free for BARWAIT, window. -/
def State.barAddr (s : State) (l : Line) (gal wait : Bool) (addr : Nat) : Except Nat (CSet × Nat) :=
  if (if gal then decide (0x800000 ≤ addr) else decide (0x100000 ≤ addr)) then .error 0x04
  else if addr / 2 % 8 ≠ 0 ∨ (addr % 2 ≠ 0 ∧ wait = false) then .error 0x05
  else
    match s.localAddr l gal (addr / 16 * 16) 1 with
    | .error c => .error c
    | .ok r => .ok r

/-- One thread of a barrier instruction: its step enters the bank's queue and the line waits for it (R274). -/
def barForm (i : Instr) (gal wait rel : Bool) (oks : Line → Bool) (d a b : List Nat) (an : Nat) (op : BankOp)
    (val : Line → Nat → Nat) (s : State) : Out :=
  perThread i oks anyTy
    (fun s l j => ready s l j (a ++ b ++ d) [] <|
      let addr := (l.x j an).toNat
      match s.barAddr l gal wait addr with
      | .error c => .trap { cls := c, addr }
      | .ok (m, off) =>
        if s.acquiring l.ref then .wait s .acquire
        else if s.unconfirmed l.ref then .wait s .confirm
        else if rel && !s.fenceOk l (if gal then .hall else .set) s.nextId then .wait s (.release (if gal then .hall else .set))
        else
          match enterBank s l m { set := m.ref, id := 0, issuer := l.ref, thread := j, off, size := 16, op, val := val l j,
                                  run := 0, pc := l.pc, word := iword i, gal } with
          | .ok s' _ => .wait s' .barStep
          | r => r) s

def execBarinit (gal : Bool) (a b : Fld) (s : State) : Out :=
  barForm (.barinit gal a b) gal false false (fun l => l.okXf false a && l.okXf false b) [] (a.xregs false) (b.xregs false) a.num
    .barInit (fun l j => (l.x j b.num).toNat) s
def execBararrive (gal : Bool) (a b : Fld) (s : State) : Out :=
  barForm (.bararrive gal a b) gal false true (fun l => l.okXf false a && l.okXf false b) [] (a.xregs false) (b.xregs false)
    a.num .barArrive (fun l j => (l.x j b.num).toNat) s
def execBarwait (gal : Bool) (d a : Fld) (s : State) : Out :=
  barForm (.barwait gal d a) gal true false (fun l => okPred1 d && l.okXf false a) [] (a.xregs false) [] a.num
    (.barWait (Fin.ofNat 8 d.num)) (fun l j => (l.x j a.num).toNat % 2) s
def execBarinv (gal : Bool) (a : Fld) (s : State) : Out :=
  barForm (.barinv gal a) gal false false (fun l => l.okXf false a) [] (a.xregs false) [] a.num .barInv (fun _ _ => 0) s

/-- WAITA (R277): the line waits until the granule is full. One that waits on a granule which a BARINIT then marks is tried again and faults.
(DESIGN CHOICE, assumption 90.) -/
def execWaita (gal : Bool) (a : Fld) (s : State) : Out :=
  uniform (.waita gal a) (fun l => l.okKf false a) anyTy
    (fun s l => match l.pendingK (a.xregs false) with
      | some n => .wait s (.kreg n)
      | none =>
        let addr := (l.kr a.num).toNat
        match s.barAddr l gal false addr with
        | .error c => .trap { cls := c, addr }
        | .ok (m, off) =>
          if l.status = .wait .filled then .ok s l
          else if s.acquiring l.ref then .wait s .acquire
          else if m.isMark (off / 16) then .trap { cls := 0x0A, addr }
          else if s.ownBank l.ref m.ref (off / 16) then .wait s (.order m.ref (off / 16))
          else if s.bankBusy m off then .wait s (.bankRoom m.core (CSet.bankOf off))
          else if m.isFull (off / 16) then .ok s l
          else .wait s (.full m.ref (off / 16))) s

end Sys2Proof.Machine
end

