-- ==== Sys2Proof/Machine/Stream.lean ====
section
/-!
DEFINITION. Meanings of COPY and of the stream-port controls (R278 to R284).
-/
namespace Sys2Proof.Machine

/-! ### Stream-port control (R281 to R284) -/

/-- PATSET copies k(n) to k(n + 9) into a pattern slot, unchecked. -/
def execPatset (a : Fld) (slot : Fin 32) (s : State) : Out :=
  uniform (.patset a slot)
    (fun l => match a with | .r n => decide (n.val + 9 < l.kregs) | _ => false) anyTy
    (fun s l =>
      if s.unconfirmed l.ref then .wait s .confirm
      else
        match l.pendingK ((List.range 10).map (a.num + ·)) with
        | some n => .wait s (.kreg n)
        | none =>
          .ok (s.updSet (setOf l.ref) fun c =>
            { c with slots := c.slots.setIfInBounds slot (Vector.ofFn fun i : Fin 10 => l.kr (a.num + i)) }) l) s

/-- The descriptor that a slot of the line's set holds. -/
def State.slotOf (s : State) (l : Line) (n : Nat) : Desc :=
  match s.cset (setOf l.ref) with
  | some c => c.slots.getD n (Vector.replicate 10 0)
  | none => Vector.replicate 10 0

/-- SREL's effect on a line and its set (R284): the held granule's tag clears, the port becomes unbound, its end mask clears. -/
def unbind (s : State) (l : Line) (q : Nat) : State × Line :=
  (s.releaseHeld (l.port q).held, (l.updPort q fun _ => Port.unbound).setEnd q 0)

def execSbind (wr : Bool) (d : Fld) (slot : Fin 32) (s : State) : Out :=
  uniform (.sbind wr d slot) (fun l => match d with | .q n => decide (n.val < l.nports) | _ => false) anyTy
    (fun s l =>
      let desc := s.slotOf l slot
      if descIllegal desc wr then .trap { cls := 0x11 }
      else if (l.port d.num).held.isSome && s.unconfirmed l.ref then .wait s .confirm
      else
        let u := unbind s l d.num
        .ok u.1 (u.2.updPort d.num fun _ => { bound := true, write := wr, slot, desc, pos := 0, held := none })) s

/-- A field that names a bound port of the line (R61). -/
def Line.okBound (l : Line) : Fld → Bool
  | .q n => decide (n.val < l.nports) && (l.port n).bound
  | _ => false

def execSeos (d a : Fld) (s : State) : Out :=
  perThread (.seos d a) (fun l => okPred1 d && l.okBound a) anyTy
    (fun s l j => .ok s (l.setP j d.num ((l.end_ a.num).getLsbD j))) s

def execSrel (a : Fld) (s : State) : Out :=
  uniform (.srel a) (fun l => l.okBound a) anyTy
    (fun s l =>
      if (l.port a.num).held.isSome && s.unconfirmed l.ref then .wait s .confirm
      else let u := unbind s l a.num; .ok u.1 u.2) s

def execSpos (d a : Fld) (s : State) : Out :=
  uniform (.spos d a) (fun l => l.okKf false d && l.okBound a) anyTy
    (fun s l => match l.pendingK (d.xregs false) with
      | some n => .wait s (.kreg n)
      | none => .ok s (l.setK d.num (BitVec.ofNat 32 (min (l.port a.num).pos 0xFFFFFFFF)))) s

def execSskip (a b : Fld) (s : State) : Out :=
  uniform (.sskip a b) (fun l => l.okBound a && l.okKf false b) anyTy
    (fun s l => match l.pendingK (b.xregs false) with
      | some n => .wait s (.kreg n)
      | none =>
        if (l.port a.num).held.isSome && s.unconfirmed l.ref then .wait s .confirm
        else
          match s.cset (setOf l.ref) with
          | none => .ok s l
          | some c =>
            let p := l.port a.num
            let r := s.afterRead c { p with pos := min (p.pos + (l.kr b.num).toNat) (2 ^ 64 - 1) }
            .ok r.1 (l.updPort a.num fun _ => r.2)) s

/-! ### COPY (R278, R279) -/

/-- The field maps of the source and destination words. -/
def copyWordsOk (src dst : Word) : Bool :=
  decide (fld src 6 10 = 0) && decide (fld dst 5 3 = 0) && decide (fld dst 16 16 = 0)

/-- The members that a gallery destination reaches: those of the mask, or the one that the base names (R157, R279). -/
def copyMembers (dst : Desc) (mmask : Nat) : List Nat :=
  if mmask = 0 then [descBase dst / 0x100000 % 8] else (List.range 8).filter mmask.testBit

/-- The destination descriptor that one member's walk follows: with a mask, the base's offset bits alone (R279). -/
def copyWalk (dst : Desc) (mmask : Nat) : Desc :=
  if mmask = 0 then dst else dst.setIfInBounds 0 (BitVec.ofNat 32 (descBase dst % 0x100000))

/-- The windows that hold the copy's barrier: the issuing set's, or each member written. -/
def State.copyBarSets (s : State) (c : CSet) (dst : Desc) (mmask : Nat) : List (Option CSet) :=
  if descSpace dst = 2 then (copyMembers dst mmask).map (s.member c) else [some c]

/-- R162, R279: whether a copy's patterns or words are illegal. -/
def State.copyIllegal (s : State) (c : CSet) (sw dw : Word) (src dst : Desc) : Bool :=
  let mm := fld dw 8 8
  !copyWordsOk sw dw || descIllegal src false || descIllegal dst true || decide (descEsize src ≠ descEsize dst) ||
    decide (descTotal src ≠ descTotal dst) || (decide (mm ≠ 0) && decide (descSpace dst ≠ 2)) ||
    decide (2 ^ c.hsize ≤ mm) ||
    (bit sw 5 && (s.copyBarSets c dst mm).any fun m => match m with
      | some m => decide (m.win ≤ fld sw 16 16 * 16)
      | none => true)

def execCopy (n : Fin 4) (d a : Fld) (s : State) : Out :=
  uniform (.copy n d a) (fun l => l.okKf false d && l.okKf false a) anyTy
    (fun s l => match l.pendingK (a.xregs false ++ d.xregs false) with
      | some r => .wait s (.kreg r)
      | none =>
        match s.cset (setOf l.ref) with
        | none => .trap { cls := 0x11 }
        | some c =>
          let sw := l.kr a.num
          let dw := l.kr d.num
          let src := s.slotOf l (fld sw 0 5)
          let dst := s.slotOf l (fld dw 0 5)
          if s.copyIllegal c sw dw src dst then .trap { cls := 0x11 }
          else if s.acquiring l.ref then .wait s .acquire
          else if s.unconfirmed l.ref then .wait s .confirm
          else if 32 ≤ (s.copyQ.filter fun o => decide (o.core = l.core) && decide (o.queue = n.val)).length then .wait s (.copyRoom n)
          else
            let g := s.grid l.ref.grid
            .ok { s with
              copyQ := s.copyQ ++ [{
                id := s.nextId, core := l.core, queue := n, issuer := l.ref, part := l.part,
                rph := (match g with | some g => fld (g.pkt.getD 0 0) 8 2 | none => 0),
                det := (match g with | some g => bit (g.pkt.getD 0 0) 7 | none => false),
                src, dst, mmask := fld dw 8 8, ben := bit sw 5, bgr := fld sw 16 16, n := 0, state := .queued, lastG := 0,
                held := none }]
              nextId := s.nextId + 1 } l) s

end Sys2Proof.Machine
end

