-- ==== Sys2Proof/Machine/Matrix.lean ====
section
/-!
DEFINITION. Meanings of the matrix instructions (11_isa_matrix.md) and the steps of the matrix queue, the array, the plane
loader and the drain queue.
-/
namespace Sys2Proof.Machine

/-! ### Forms and geometry (R289 to R291, R299) -/

/-- A matrix instruction: operand and type faults, then the test of R40, then `f`. -/
def matrixForm (i : Instr) (operands types : Line → Bool) (f : State → Line → TRes) (s : State) : Out :=
  uniform i operands types (fun s l => if !l.fullMask then .trap { cls := 0x15 } else f s l) s

/-- Element size of an operand in bits. -/
def matBits : Ty → Nat
  | .e2m1 | .i4 => 4
  | .bf16 | .f16 => 16
  | .f32 => 32
  | .f64 => 64
  | _ => 8
/-- Element size of an A row: the codes of .i4 take a byte (R302). -/
def aBits : Ty → Nat
  | .i4 => 8
  | t => matBits t
/-- Largest dense K, which is also the number of stored rows (R299). -/
def kMax : Ty → Nat
  | .e2m1 | .i4 => 256
  | .f64 => 64
  | _ => 128
def bRowBytes (t : Ty) : Nat := 128 * matBits t / 8

/-- Types of MMA and MLOADB (R290). -/
def mmaTypes (l : Line) : Bool :=
  (match l.ty with
   | .e4m3 | .e5m2 | .e2m1 | .bf16 | .f16 | .f32 | .f64 | .i8 | .i4 | .s8 | .n8 => true
   | _ => false) &&
  (!l.sp24 || (match l.ty with | .e4m3 | .e5m2 | .s8 | .n8 => true | _ => false))
/-- Types of MMAS (R290). -/
def mmasTypes (l : Line) : Bool :=
  !l.sp24 && (match l.ty with | .e4m3 | .e5m2 | .bf16 | .f16 | .f32 => true | _ => false)

/-- MX in effect for a type (R136, R300); an integer type ignores the descriptor's (R134). -/
def effMx (d0 d1 : Word) (t : Ty) : Bool := if stairDef d1 then decide (t = .e2m1) else Ty.isFloat t && (stairOf d0 d1).mx
/-- GRP in effect. -/
def effGrp (d0 d1 : Word) : Nat := if stairDef d1 then 32 else (stairOf d0 d1).grp
/-- A tile of doubles: .f64, or an FP64 landing in leveled mode (R69, R132, R299). -/
def tile64 (d0 d1 : Word) (t : Ty) : Bool :=
  decide (t = .f64) || (Ty.isFloat t && !stairDef d1 && (stairOf d0 d1).l3f && !(stairOf d0 d1).chain)

/-- The granules of a scratchpad range that a set of byte ranges covers. -/
def rangeGrans (rs : List (Nat × Nat)) : List Nat := (rs.map fun r => gransOf r.1 r.2).flatten.eraseDups

/-- Whether an uncorrectable error lies in a range; its first granule. -/
def CSet.badIn (c : CSet) (gs : List Nat) : Bool := gs.any c.badGran.contains

/-- Every granule full and not taken by another: a tile is waited for as a whole (R155), by a reader with a place in the list of each of its
granules (R154). (DEDUCED, assumption 84.) -/
def CSet.tileFull (c : CSet) (gs : List Nat) : Bool := gs.all fun g => c.available g 0

/-- Own bank requests to any of the granules. -/
def State.ownTile (s : State) (r : LineRef) (gs : List Nat) : Option Nat := gs.find? fun g => s.ownBank r (setOf r) g

/-! ### Set-up: SETSTAIR, QDSET, MSWAP, MZERO, MSTAT (R295, R296, R307, R308) -/

def execSetstair (a : Fld) (s : State) : Out :=
  matrixForm (.setstair a) (fun l => l.okK2 a) anyTy
    (fun s l => match l.pendingK [a.num, a.num + 1] with
      | some n => .wait s (.kreg n)
      | none =>
        if stairIllegal (l.kr a.num) (l.kr (a.num + 1)) then .trap { cls := 0x12 }
        else .ok s { l with d0 := l.kr a.num, d1 := l.kr (a.num + 1) }) s

/-- Whether a mask names only lines that the set holds and that have not ended. -/
def State.holdsLines (s : State) (r : SetRef) (m : Nat) : Bool :=
  (List.range 16).all fun i => !m.testBit i ||
    (match s.line { grid := r.grid, set := r.set, line := i } with | some l => decide (l.status ≠ .ended) | none => false)

def execQdset (a : Fld) (s : State) : Out :=
  matrixForm (.qdset a) (fun l => l.okKf false a) anyTy
    (fun s l => match l.pendingK (a.xregs false) with
      | some n => .wait s (.kreg n)
      | none =>
        let m := l.kr a.num
        let mem := fld m 0 16
        match s.cset (setOf l.ref) with
        | none => .ok s l
        | some c =>
          if fld m 16 16 ≠ 0 then .trap { cls := 0x19 }
          else if mem ≠ 0 ∧ (popCount mem < 2 ∨ 6 < popCount mem ∨ s.holdsLines (setOf l.ref) mem = false) then .trap { cls := 0x17 }
          else if fld c.qdst 16 16 ≠ 0 ∧ mem ≠ fld c.qdst 0 16 then .trap { cls := 0x18 }
          else if s.unconfirmed l.ref then .wait s .confirm
          else if mem = fld c.qdst 0 16 then .ok s l
          else
            .ok { (s.updSet (setOf l.ref) fun c => { c with qdst := BitVec.ofNat 32 mem }) with
                lines := s.lines.map fun x => if setOf x.ref = setOf l.ref ∧ mem.testBit x.ref.line then { x with mmaCount := 0 } else x }
              (if mem.testBit l.ref.line then { l with mmaCount := 0 } else l)) s

/-- Enters an operation into the core's matrix queue of 16 entries (R293). -/
def matEnter (s : State) (l : Line) (k : MatKind) (l' : Line) : TRes :=
  if s.unconfirmed l.ref then .wait s .confirm
  else if 16 ≤ (s.matQ.filter fun o => decide (o.core = l.core)).length then .wait s .matRoom
  else .ok { s with matQ := s.matQ ++ [{ id := s.nextId, core := l.core, issuer := l.ref, kind := k }], nextId := s.nextId + 1 } l'

def execMswap (s : State) : Out := matrixForm .mswap anyTy anyTy (fun s l => matEnter s l .mswap l) s
def execMzero (t : Fin 4) (s : State) : Out := matrixForm (.mzero t) anyTy anyTy (fun s l => matEnter s l (.mzero t) l) s

/-- MSTAT's registers are pending until its step in matrix order (R308). -/
def execMstat (clr : Bool) (d : Fld) (m : Fin 32) (s : State) : Out :=
  matrixForm (.mstat clr d m) (fun l => l.okK2 d) anyTy
    (fun s l => match l.pendingK [d.num, d.num + 1] with
      | some n => .wait s (.kreg n)
      | none => matEnter s l (.mstat m clr d.num) { l with kpend := l.kpend ++ [d.num, d.num + 1] }) s

/-! ### The matrix queue (R292) -/

/-- Tiles that an MMA in flight writes. -/
def MmaRun.tiles (m : MmaRun) : List Nat := if tile64 m.d0 m.d1 m.ty then [m.tile, m.tile + 1] else [m.tile]
/-- Tiles that an operation of the matrix queue touches: MDRAIN's by its epilogue's tile format. -/
def State.matTiles (s : State) (o : MatOp) : List Nat :=
  match o.kind with
  | .mswap => []
  | .mzero t => [t]
  | .mstat m _ _ => [m / 8]
  | .mread id =>
    match s.drainQ.find? fun d => decide (d.id = id) with
    | some { kind := .mdrain t _ _ epi _ _ _, .. } => if fld epi 16 2 = 1 then [t, t + 1] else [t]
    | _ => []
def meet (a b : List Nat) : Bool := a.any b.contains

/-- An MMA's monitors stand with its even tile, so an MSTAT of tile t waits for the pair that t names too (R139). Under pre-emption a queued MSTAT
takes effect, although an earlier drain operation of its line is saved unfinished (R312, R379). -/
def State.matReady (s : State) (o : MatOp) : Bool :=
  let set := setOf o.issuer
  let before (p : MatOp) : Bool := decide (setOf p.issuer = set) && decide (p.id < o.id)
  (s.matQ.all fun p => !before p || !(meet (s.matTiles p) (s.matTiles o) || (decide (p.kind = .mswap) && decide (o.kind = .mswap)))) &&
  (s.runs.all fun m => !(decide (m.set = set) && decide (m.id < o.id) && meet m.tiles (s.matTiles o))) &&
  (match o.kind with
   | .mswap => s.loads.all fun b => !(decide (b.set = set) && decide (b.id < o.id))
   | .mstat .. =>
     (s.runs.all fun m => !(decide (m.set = set) && decide (m.id < o.id) && m.members.contains o.issuer.line)) &&
     s.drainQ.all fun d => !(decide (d.issuer = o.issuer) && decide (d.id < o.id) && (d.runs || !s.stopping o.issuer))
   | _ => true)

/-- An element of a tile. -/
def Tile.at_ (t : Tile) (i n : Nat) : Word := tget 0 t (128 * i + n)
def Tile.put (t : Tile) (i n : Nat) (v : Word) : Tile := tset 0 t (128 * i + n) v
def CSet.tile (c : CSet) (t : Nat) : Tile := c.tiles.getD t []
def CSet.setTile (c : CSet) (t : Nat) (v : Tile) : CSet := { c with tiles := c.tiles.setIfInBounds t v }
/-- An element as 64 bits: of a tile, or of a pair (R69). -/
def CSet.elem (c : CSet) (pair : Bool) (t i n : Nat) : DWord :=
  if pair then (c.tile (t + 1)).at_ i n ++ (c.tile t).at_ i n else ((c.tile t).at_ i n).setWidth 64
def CSet.putElem (c : CSet) (pair : Bool) (t i n : Nat) (v : DWord) : CSet :=
  let c := c.setTile t ((c.tile t).put i n (v.setWidth 32))
  if pair then c.setTile (t + 1) ((c.tile (t + 1)).put i n ((v >>> 32).setWidth 32)) else c

/-- The word of a monitor (R140). -/
def Monitor.word (m : Monitor) : DWord := BitVec.ofNat 64 (m.count + if m.sat then 2 ^ 63 else 0)

/-- The values of the drained rows (R306). -/
def CSet.drained (c : CSet) (t rows : Nat) (pair : Bool) : List DWord :=
  (List.range rows).flatMap fun i => (List.range 128).map fun n => c.elem pair t i n
/-- Rows of a tile cleared. -/
def Tile.clearRows (t : Tile) (rows : Nat) : Tile := t.filter fun e => decide (128 * rows ≤ e.1)

/-- The effect of an operation of the matrix queue (R292, R298, R306 to R308). -/
def matEffect (s : State) (o : MatOp) : State :=
  let set := setOf o.issuer
  let s := { s with matQ := s.matQ.filter fun p => decide (p.id ≠ o.id) }
  match o.kind with
  | .mswap => s.updSet set fun c => { c with active := c.shadow, shadow := c.active }
  | .mzero t => s.updSet set fun c => c.setTile t []
  | .mstat m clr d =>
    match s.cset set with
    | none => s
    | some c =>
      let w := (c.mons.getD m Monitor.zero).word
      let s := s.updLineAll o.issuer fun l =>
        { (l.setK d (w.setWidth 32)).setK (d + 1) ((w >>> 32).setWidth 32) with
          kpend := (l.kpend.erase d).erase (d + 1) }
      if clr then s.updSet set fun c => { c with mons := c.mons.setIfInBounds m Monitor.zero } else s
  | .mread id =>
    match s.cset set, s.drainQ.find? fun d => decide (d.id = id) with
    | some c, some { kind := .mdrain t _ _ epi _ _ _, .. } =>
      let pair := decide (fld epi 16 2 = 1)
      let rows := fld epi 8 7 + 1
      let vs := c.drained t rows pair
      let s := { s with drainQ := upd (fun d => decide (d.id = id)) (fun d => match d.kind with
          | .mdrain t dw sw e lm _ _ => { d with kind := .mdrain t dw sw e lm vs true }
          | k => { d with kind := k }) s.drainQ }
      if bit epi 7 then
        s.updSet set fun c =>
          let c := c.setTile t ((c.tile t).clearRows rows)
          if pair then c.setTile (t + 1) ((c.tile (t + 1)).clearRows rows) else c
      else s
    | _, _ => s

/-- MATRIX_QUEUE_EFFECT: the first operation of the core's queue that may act does so. -/
def execMatrixQueueEffect (core : Nat) (s : State) : Out :=
  match s.matQ.find? fun o => decide (o.core = core) && s.matReady o with
  | none => .next s
  | some o => .next (matEffect s o).reap

/-! ### MLOADB (R298 to R301) -/

/-- Bytes of the stored rows, and of the metadata when the plane needs any. -/
def bBytes (t : Ty) : Nat := kMax t * bRowBytes t
def metaBytes (t : Ty) (sp24 mx : Bool) (grp : Nat) : Nat :=
  if sp24 then 8192 else if mx then kMax t / 32 * 128 else if t = .i8 ∨ t = .i4 then kMax t / grp * 512 else 0

/-- The layout of the sparsity bytes (R300). -/
def sparsityOk (bs : List Byte) : Bool :=
  bs.all fun b => decide (b.toNat % 4 < b.toNat / 4 % 4) && decide (b.toNat < 16)

/-- MLOADB reads its operands and its block when it issues (R301). (DEDUCED, assumption 19.) An uncorrectable error comes before a sparsity byte
that breaks its layout. (DESIGN CHOICE, assumption 87.) -/
def execMloadb (a b : Fld) (s : State) : Out :=
  matrixForm (.mloadb a b) (fun l => l.okKf false a && l.okKf false b) mmaTypes
    (fun s l => match l.pendingK (a.xregs false ++ b.xregs false) with
      | some n => .wait s (.kreg n)
      | none =>
        let bw := l.kr a.num
        let mw := l.kr b.num
        let mx := effMx l.d0 l.d1 l.ty
        let grp := effGrp l.d0 l.d1
        let mb := metaBytes l.ty l.sp24 mx grp
        let boff := fld bw 0 20
        let moff := fld mw 0 20
        match s.cset (setOf l.ref) with
        | none => .trap { cls := 0x06 }
        | some c =>
          if l.sp24 && mx then .trap { cls := 0x12 }
          else if fld bw 20 2 = 3 ∨ fld bw 22 10 ≠ 0 ∨ (mb ≠ 0 ∧ fld mw 20 12 ≠ 0) then .trap { cls := 0x19 }
          else if boff % 16 ≠ 0 ∨ (mb ≠ 0 ∧ moff % 16 ≠ 0) then .trap { cls := 0x05, addr := if boff % 16 ≠ 0 then boff else moff }
          else if c.win < boff + bBytes l.ty ∨ (mb ≠ 0 ∧ c.win < moff + mb) then
            .trap { cls := 0x06, addr := if c.win < boff + bBytes l.ty then boff else moff }
          else
            let gs := rangeGrans ((boff, bBytes l.ty) :: (if mb = 0 then [] else [(moff, mb)]))
            let set := setOf l.ref
            if s.acquiring l.ref then .wait s .acquire
            else if s.unconfirmed l.ref then .wait s .confirm
            else if s.matQ.any (fun o => decide (setOf o.issuer = set) && decide (o.kind = .mswap)) ||
                s.loads.any (fun x => decide (x.set = set)) then .wait s (.shadow set)
            else
              match s.ownTile l.ref gs with
              | some g => .wait s (.order set g)
              | none =>
                if s.coreBusy l.core then .wait s (.tile set gs)
                else if fld bw 20 2 ≠ 0 ∧ (c.tileFull gs && s.tileTurn l.ref set gs) = false then .wait (s.listTile l.ref set gs) (.tile set gs)
                else
                  let s := s.leaveTile l.ref
                  let info := readBytes c.spad moff mb
                  let empty := s.updSet set fun c => { c with shadow := Plane.empty }
                  if c.badIn gs then
                    .done (faultAt empty l (.mloadb a b) 0 { cls := 0x14, addr := (gs.filter c.badGran.contains).foldl min (2 ^ 16) * 16 })
                  else if l.sp24 && !sparsityOk info then .done (faultAt empty l (.mloadb a b) 0 { cls := 0x1B, addr := moff })
                  else
                    let id := s.nextId
                    let take := decide (fld bw 20 2 = 1)
                    .wait { (s.updSet set fun c => if take then gs.foldl (fun c g => c.take g id) c else c) with
                        loads := s.loads ++ [{
                          id, set, issuer := l.ref, grans := gs, take,
                          plane := { kind := some { ty := l.ty, sp24 := l.sp24, mx, grp }
                                     rows := readBytes c.spad boff (bBytes l.ty), info } }]
                        nextId := id + 1 } (.mloadb (.mloadb a b))) s

/-- MLOADB_COMPLETE: the loading of the set's shadow plane ends, and its line goes on. -/
def execMloadbComplete (set : SetRef) (s : State) : Out :=
  match s.loads.find? fun b => decide (b.set = set) with
  | some b =>
    let s := { s with loads := s.loads.filter fun x => decide (x.id ≠ b.id) }
    let s := s.updSet set fun c =>
      let c := { c with shadow := b.plane }
      if b.take then b.grans.foldl (fun c g => if c.holder g = some b.id then c.setEmpty g else c) c else c
    match s.line b.issuer with
    | some l => .next (s.finish l)
    | none => .next s
  | none => .next s

/-! ### MMA (R302 to R304, R42, R43, R135) -/

/-- The words of an MMA, whatever its form. -/
def mmaParts : Instr → Option (Nat × Fld × Fld × Bool)
  | .mma t a b => some (t, a, b, false)
  | .mmaPort t a b => some (t, a, b, true)
  | _ => none

def rowBytes (t : Ty) (k : Nat) : Nat := (k * aBits t + 7) / 8
/-- Offset of a row's scales, and its span (R302). -/
def scaleAt (t : Ty) (k : Nat) : Nat := (rowBytes t k + 15) / 16 * 16
def rowSpan (t : Ty) (k : Nat) (mx : Bool) : Nat := if mx then scaleAt t k + (k + 31) / 32 else rowBytes t k

/-- How many elements an MMA.port pops: rows of elements and of scales (R302). -/
def mmaPops (l : Line) (b : Fld) : Nat :=
  let sw := l.kr b.num
  let k := fld sw 8 8 + 1
  (fld sw 0 7 + 1) * ((rowBytes l.ty k + 7) / 8 + ((if effMx l.d0 l.d1 l.ty then (k + 31) / 32 else 0) + 7) / 8)

/-- The window fault of an MMA.port: the first element that it pops outside every window (R77, R148, R291). -/
def State.portWindow (s : State) (l : Line) (c : CSet) (n count : Nat) : Option FaultInfo :=
  let p := l.port n
  if p.space = 0 ∨ p.oobz then none
  else (List.range count).findSome? fun i =>
    match descElem p.desc (p.pos + i) with
    | .at_ a => if (s.spadElem c p.space a).isNone then some { cls := 0x06, addr := (a % (2 ^ 64 : Nat)).toNat, port := some n, elem := p.pos + i } else none
    | _ => none

/-- Matrix-word, illegal-operand, alignment and window faults of an MMA (R291). -/
def mmaFault (s : State) (l : Line) (c : CSet) (t : Nat) (a b : Fld) (port : Bool) : Option FaultInfo :=
  let aw := l.kr a.num
  let sw := l.kr b.num
  let k := fld sw 8 8 + 1
  let mx := effMx l.d0 l.d1 l.ty
  let span := rowSpan l.ty k mx
  let pitch := fld sw 16 12 * 16
  let kmax := kMax l.ty * (if l.sp24 then 2 else 1)
  if bit sw 7 || decide (fld sw 28 4 ≠ 0) || decide (kmax < k) ||
      (if port then decide (pitch ≠ 0) else decide (pitch = 0) || decide (pitch < span) || decide (fld aw 20 2 = 3) || decide (fld aw 22 10 ≠ 0)) then
    some { cls := 0x19 }
  else if tile64 l.d0 l.d1 l.ty && decide (t % 2 = 1) then some { cls := 0x03 }
  else if !port && decide (fld aw 0 20 % 16 ≠ 0) then some { cls := 0x05, addr := fld aw 0 20 }
  else if port then s.portWindow l c a.num (mmaPops l b)
  else if c.win < fld aw 0 20 + fld sw 0 7 * pitch + span then some { cls := 0x06, addr := fld aw 0 20 }
  else none

/-- A line that waits in the rendezvous latch, with its instruction word and its descriptor. -/
def Line.latchWord (l : Line) : Word := match l.status with | .wait (.latch i) => iword i | _ => 0

/-- The mismatch of a rendezvous (R42, R135): every member takes the fault at its MMA, and the latch is empty. -/
def mismatch (i : Instr) (s : State) (l : Line) (set : SetRef) : State :=
  let s := s.updSet set fun c => { c with latch := [], qdst := c.qdst &&& 0xFFFF }
  let others := s.lines.filter fun m => decide (setOf m.ref = set) && decide (m.ref ≠ l.ref) && m.inLatch
  faultAt (others.foldl (fun s m => s.trapEntry m { cls := 0x16 } m.pc 0 m.pc m.latchWord 0) s) l i 0 { cls := 0x16 }

/-- A member of the rendezvous whose instruction word or descriptor differs from the line's (R42, R135). -/
def State.mismatched (s : State) (l : Line) (i : Instr) : Bool :=
  s.lines.any fun m => decide (setOf m.ref = setOf l.ref) && m.inLatch &&
    (decide (m.latchWord ≠ iword i) || decide (m.d0 ≠ l.d0) || decide (m.d1 ≠ l.d1))

/-- A line at its MMA that a QDSET has made a member since has its rendezvous still to come: it looks again at its MMA (R42, R297). -/
def State.mustMeet (s : State) (l : Line) (c : CSet) (i : Instr) : Bool :=
  bit c.qdst l.ref.line && (decide (c.missing ≠ [l.ref.line]) || s.mismatched l i)

/-- Field a of the .port form: a read-bound port with ESIZE 3 (R302). A port bound to the gallery is refused, since no matrix instruction accepts
that space (R291), as an illegal operand. (DESIGN CHOICE, assumption 88.) -/
def Line.okPortA (l : Line) : Fld → Bool
  | .q n => l.okPortR true n && decide ((l.port n).space ≠ 2)
  | _ => false

/-- MMA at issue: the checks, the rendezvous, then the wait for its staging. A bad port is an illegal operand of R211's step 4, before the test
of R40, as every other operand is. (DEDUCED, assumption 87.) -/
def mmaForm (i : Instr) (t : Nat) (a b : Fld) (port : Bool) (s : State) : Out :=
  matrixForm i (fun l => (if port then l.okPortA a else l.okKf false a) && l.okKf false b) mmaTypes
    (fun s l => match l.pendingK ((if port then [] else a.xregs false) ++ b.xregs false) with
      | some n => .wait s (.kreg n)
      | none =>
        let set := setOf l.ref
        match s.cset set with
        | none => .trap { cls := 0x06 }
        | some c =>
          if stairUnfit l.d1 l.ty then .trap { cls := 0x12 }
          else if s.acquiring l.ref then .wait s .acquire
          else if s.unconfirmed l.ref then .wait s .confirm
          else
            let joint := bit c.qdst l.ref.line
            if joint && decide (c.missing ≠ [l.ref.line]) then
              .wait (s.updSet set fun c => { c with latch := c.latch ++ [l.ref.line]
                                                    qdst := c.qdst ||| (1#32 <<< (l.ref.line + 16)) }) (.latch i)
            else if joint && s.mismatched l i then
              .done (mismatch i s l set)
            else
              match mmaFault s l c t a b port with
              | some f => .trap f
              | none => .wait s (.mma i)) s

def execMma (t : Fin 4) (a b : Fld) (s : State) : Out := mmaForm (.mma t a b) t a b false s
def execMmaPort (t : Fin 4) (a b : Fld) (s : State) : Out := mmaForm (.mmaPort t a b) t a b true s

/-! ### Staging and issue (R303) -/

/-- What staging comes to. -/
inductive Stage where
  | ok (s : State) (l : Line) (rows scales : List (List Byte))
  | wait (s : State)
  | trap (f : FaultInfo)

/-- A number of pops of a port, as little-endian bytes (R302). -/
def popBytes (q : Nat) : Nat → State → Line → List Byte → Opnd × List Byte
  | 0, s, l, acc => (.ok s l 0, acc)
  | n + 1, s, l, acc =>
    match readPort s l 0 q true with
    | .ok s l v => popBytes q n s l (acc ++ bytesOf v.toNat 8)
    | r => (r, acc)

/-- The rows of a port-fed A operand. A `.take` port that comes back to a granule that it has left finds it emptied by its own pops, which take
effect at issue: it waits for a fill that does not come before it. (DEDUCED, assumption 89.) -/
def stagePort (q rb sc : Nat) : Nat → State → Line → List (List Byte) → List (List Byte) → Stage
  | 0, s, l, rows, scales => .ok s l rows scales
  | m + 1, s, l, rows, scales =>
    match popBytes q ((rb + 7) / 8) s l [] with
    | (.ok s l _, row) =>
      match popBytes q ((sc + 7) / 8) s l [] with
      | (.ok s l _, scale) => stagePort q rb sc m s l (rows ++ [row.take rb]) (scales ++ [scale.take sc])
      | (.wait s _, _) => .wait s
      | (.trap f, _) => .trap f
    | (.wait s _, _) => .wait s
    | (.trap f, _) => .trap f

/-- Staging of the A operand by the line that issues (R303): provisional until it succeeds. -/
def stageA (s : State) (l : Line) (c : CSet) (a b : Fld) (port : Bool) : Stage :=
  let aw := l.kr a.num
  let sw := l.kr b.num
  let m := fld sw 0 7 + 1
  let k := fld sw 8 8 + 1
  let mx := effMx l.d0 l.d1 l.ty
  let sc := if mx then (k + 31) / 32 else 0
  let rb := rowBytes l.ty k
  if port then
    match stagePort a.num rb sc m s l [] [] with
    | .ok s' l' rows scales =>
      let past := descTotal (l.port a.num).desc < (l.port a.num).pos + m * ((rb + 7) / 8 + (sc + 7) / 8)
      .ok s' (if past then l'.setEnd a.num (allThreads l.width) else l') rows scales
    | .wait s' => .wait { s with walks := s'.walks, waitQ := s'.waitQ, nextId := s'.nextId }
    | r => r
  else
    let pitch := fld sw 16 12 * 16
    let offs := (List.range m).map fun i => fld aw 0 20 + i * pitch
    let gs := rangeGrans (offs.map fun o => (o, rowSpan l.ty k mx))
    let set := setOf l.ref
    if (s.ownTile l.ref gs).isSome || s.coreBusy l.core then .wait s
    else if decide (fld aw 20 2 ≠ 0) && !(c.tileFull gs && s.tileTurn l.ref set gs) then .wait (s.listTile l.ref set gs)
    else if c.badIn gs then
      let inBad (o : Nat) : Bool := c.badGran.contains (o / 16)
      let cells := (List.range m).flatMap fun i => (List.range k).flatMap fun e =>
        ((List.range (max 1 (aBits l.ty / 8))).map fun y => (i * k + e, nth 0 offs i + e * aBits l.ty / 8, nth 0 offs i + e * aBits l.ty / 8 + y)) ++
        (if mx then [(i * k + e, nth 0 offs i + scaleAt l.ty k + e / 32, nth 0 offs i + scaleAt l.ty k + e / 32)] else [])
      match cells.find? fun x => inBad x.2.2 with
      | some x => .trap { cls := 0x14, addr := x.2.1, elem := x.1 }
      | none => .trap { cls := 0x14, addr := (gs.filter c.badGran.contains).foldl min (2 ^ 16) * 16 }
    else
      .ok (if fld aw 20 2 = 1 then (s.leaveTile l.ref).updSet set fun c => gs.foldl CSet.setEmpty c else s.leaveTile l.ref) l
        (offs.map fun o => readBytes c.spad o rb) (offs.map fun o => readBytes c.spad (o + scaleAt l.ty k) sc)

/-- The record that an MMA demands of the active plane (R301). -/
def planeWanted (l : Line) : PlaneRec :=
  { ty := l.ty, sp24 := l.sp24, mx := effMx l.d0 l.d1 l.ty, grp := effGrp l.d0 l.d1 }

/-- MMA_ISSUE: the line's MMA, checked and arrived, stages A and issues; every member of its rendezvous goes on. An MMA of
a set that is being pre-empted does not issue (R312). The plane is tested before A is staged. (DESIGN CHOICE, assumption 87.) -/
def execMmaIssue (r : LineRef) (s : State) : Out :=
  match s.line r with
  | none => .next s
  | some l =>
    match l.status with
    | .wait (.mma i) =>
      match mmaParts i, s.cset (setOf r) with
      | some (t, a, b, port), some c =>
        if c.phase ≠ .resident ∨ s.matQ.any (fun o => decide (setOf o.issuer = setOf r) && decide (o.kind = .mswap)) then .next s
        else if s.mustMeet l c i then .next (s.setLine { l with status := .ready })
        else if c.active.kind ≠ some (planeWanted l) then .next (faultAt (s.dropWaits l) { l with grants := [] } i 0 { cls := 0x1A })
        else
          match stageA s l c a b port with
          | .wait s => .next s
          | .trap f => .next (faultAt (s.dropWaits l) { l with grants := [] } i 0 f)
          | .ok s' l' rows scales =>
            let set := setOf r
            let others := s'.lines.filter fun m => decide (setOf m.ref = set) && decide (m.ref ≠ r) && m.inLatch
            let joint := bit c.qdst r.line
            let done (m : Line) : Line := { m.next with mmaCount := if joint then m.mmaCount + 1 else m.mmaCount }
            let run : MmaRun :=
              { id := s'.nextId, set, core := l.core, issuer := r,
                members := r.line :: (if joint then others.map (·.ref.line) else []), tile := t,
                rows := fld (l.kr b.num) 0 7 + 1, depth := fld (l.kr b.num) 8 8 + 1, ty := l.ty, isat := l.isat, d0 := l.d0,
                d1 := l.d1, a := rows, scales, plane := c.active }
            let s' := { s' with runs := s'.runs ++ [run], nextId := s'.nextId + 1 }
            let s' := if joint then
                (others.foldl (fun s m => s.setLine (done m)) s').updSet set fun c =>
                  { c with latch := [], qdst := c.qdst &&& 0xFFFF }
              else s'
            .next (s'.setLine (done l'))
      | _, _ => .next s
    | _ => .next s

/-! ### The array (R304, R139 to R142) -/

/-- Element e of packed bytes of a width in bits. -/
def packed (bits : Nat) (bs : Array Byte) (e : Nat) : Nat :=
  if bits = 4 then (bs.getD (e / 2) 0).toNat / 16 ^ (e % 2) % 16
  else leNat ((List.range (bits / 8)).map fun i => bs.getD (e * (bits / 8) + i) 0)

/-- The code of B at logical position k of column n, absent positions of a sparse plane being `none` (R299, R300). -/
def MmaRun.bCode (m : MmaRun) (rows info : Array Byte) (k n : Nat) : Option Nat :=
  let at_ (r : Nat) : Nat :=
    packed (matBits m.ty) rows (r * 128 + n)
  match m.plane.kind with
  | some { sp24 := true, .. } =>
    let e := (info.getD (k / 4 * 128 + n) 0).toNat
    if k % 4 = e % 4 then some (at_ (k / 4 * 2)) else if k % 4 = e / 4 % 4 then some (at_ (k / 4 * 2 + 1)) else none
  | _ => some (at_ k)

/-- A product of a block: the default NaN, with no flag, when a scale of the block is NaN (R89, R124). -/
def mxProduct (nan : Bool) (a b : FV) : FV × Flags := if nan then (.defNan, 0) else product a b

/-- One element of an MMA: the codes of A's row and B's column, in ascending K. -/
def MmaRun.element (m : MmaRun) (aRow : List Nat) (bCol : List (Option Nat)) (sa sb : List Nat) (words : List Word) (z : Nat) :
    ElemSum :=
  match m.ty with
  | .s8 | .n8 =>
    let v (c : Nat) : Int := if m.ty = .s8 then signedOf c 8 else c
    integerSum m.isat z (List.zipWith (fun a b => match b with | some b => v a * v b | none => 0) aRow bCol)
  | .i8 | .i4 =>
    let g := effGrp m.d0 m.d1
    asymmetric (decide (m.ty = .i4)) z
      ((List.zip (chunks g (List.zip aRow bCol)) words).map fun p =>
        (p.1.map fun x => signedOf x.1 8, p.1.map fun x => x.2.getD 0, p.2))
  | t =>
    let f := t.fmt
    let zf : Fmt := if tile64 m.d0 m.d1 t then .f64 else .f32
    let st := stairFor m.d0 m.d1 t
    if st.chain then
      chained zf z (List.zipWith (fun a b => (f.value a, match b with | some b => f.value b | none => f.value 0)) aRow bCol)
    else
      let mx := effMx m.d0 m.d1 t
      let nanAt (sc : List Nat) (k : Nat) : Bool := mx && decide (nth 0 sc (k / 32) = 255)
      let ps := (List.zip aRow bCol).zipIdx.map fun p =>
        match p.1.2 with
        | some b => mxProduct (nanAt sa p.2 || nanAt sb p.2) (f.value p.1.1) (f.value b)
        | none => (.fin (Ex.zero false), 0)
      let r := leveled st zf z (ps.map (·.1)) (if mx then List.zipWith (fun (a b : Nat) => (a : Int) + b - 254) sa sb else [])
      { r with fl := ps.foldl (fun fl p => fl ||| p.2) r.fl }

/-- Adds counts to a monitor, saturating (R140, R141); true when it carried past its end. -/
def Monitor.addCount (m : Monitor) (n : Nat) : Monitor × Bool :=
  if 2 ^ 48 ≤ m.count + n then ({ count := 2 ^ 48 - 1, sat := true }, true) else ({ m with count := m.count + n }, false)

/-- The counts of an MMA into the monitors of its (even) tile: index 8n + 2l + c. -/
def CSet.count (c : CSet) (tile : Nat) (cnt : Counts) : CSet × Bool :=
  cnt.zipIdx.foldl (fun acc p =>
      let one (acc : CSet × Bool) (i v : Nat) : CSet × Bool :=
        let r := (acc.1.mons.getD i Monitor.zero).addCount v
        ({ acc.1 with mons := acc.1.mons.setIfInBounds i r.1 }, acc.2 || r.2)
      one (one acc (8 * tile + 2 * p.2) p.1.1) (8 * tile + 2 * p.2 + 1) p.1.2) (c, false)

/-- The whole of an MMA on its set, elements in ascending row and column: the set, its flags, whether a monitor saturated, and
the 1-bits that it discarded. -/
def MmaRun.apply (m : MmaRun) (c : CSet) : CSet × Flags × Bool × Nat :=
  let rows := m.plane.rows.toArray
  let info := m.plane.info.toArray
  let pair := tile64 m.d0 m.d1 m.ty
  let groups := (m.depth + effGrp m.d0 m.d1 - 1) / effGrp m.d0 m.d1
  let blocks := (m.depth + 31) / 32
  let bCols := (List.range 128).map fun n =>
    ((List.range m.depth).map (fun k => m.bCode rows info k n),
     (List.range blocks).map (fun g => (info.getD (g * 128 + n) 0).toNat),
     (List.range groups).map (fun g => BitVec.ofNat 32 (packed 32 info (g * 128 + n))))
  let r := (List.range m.rows).foldl (fun acc i =>
      let ab := (nth [] m.a i).toArray
      let aRow := (List.range m.depth).map fun k => packed (aBits m.ty) ab k
      let sa := (nth [] m.scales i).map (·.toNat)
      bCols.zipIdx.foldl (fun acc p =>
          let e := m.element aRow p.1.1 sa p.1.2.1 p.1.2.2 (acc.1.elem pair m.tile i p.2).toNat
          (acc.1.putElem pair m.tile i p.2 (BitVec.ofNat 64 e.z), acc.2.1 ||| e.fl, Counts.add acc.2.2 e.cnt)) acc)
    (c, (0 : Flags), Counts.zero)
  let k := r.1.count m.tile r.2.2
  (k.1, r.2.1, k.2, (r.2.2.map (·.1)).foldl (· + ·) 0)

/-- MMA_COMPLETE: the set's oldest MMA writes its tile, its counts, its SO bits and its flags in one step (R304), after every
operation before it in matrix order on that tile. -/
def execMmaComplete (set : SetRef) (s : State) : Out :=
  match s.runs.find? fun m => decide (m.set = set) with
  | none => .next s
  | some m =>
    if s.matQ.any fun o => decide (setOf o.issuer = set) && decide (o.id < m.id) && meet (s.matTiles o) m.tiles then .next s
    else
      match s.cset set with
      | none => .next { s with runs := s.runs.filter fun x => decide (x.id ≠ m.id) }
      | some c =>
        let r := m.apply c
        let s := { (s.updSet set fun _ => r.1) with
          runs := s.runs.filter fun x => decide (x.id ≠ m.id)
          pkg := s.pkg.countBy (Counter.ones m.ty.code) r.2.2.2 }
        .next (m.members.foldl (fun s n => s.updLineAll { grid := set.grid, set := set.set, line := n } fun l =>
          (if r.2.2.1 then l.orSo (2 ^ m.tile) else l).orKstat r.2.1) s).reap

/-! ### MDRAIN (R305, R306) -/

/-- Output types of MDRAIN (R305). -/
def outType (c : Nat) : Option Ty :=
  match c with
  | 0x00 => some .s32 | 0x04 => some .s8 | 0x05 => some .n8 | 0x08 => some .f32 | 0x09 => some .f64 | 0x0A => some .f16
  | 0x0B => some .bf16 | 0x0C => some .e4m3 | 0x0D => some .e5m2 | _ => none

/-- MDRAIN's faults in the order of R291. -/
def mdrainFault (c : CSet) (t : Nat) (dw sw ep : Word) : Option FaultInfo :=
  let zf := fld ep 16 2
  let rows := fld ep 8 7 + 1
  let pitch := fld ep 18 12 * 16
  let doff := fld dw 0 20
  let ssz := if zf = 1 then 8 else 4
  match outType (fld ep 0 5) with
  | none => some { cls := 0x19 }
  | some ot =>
    let row := 128 * ot.bits / 8
    if fld dw 20 12 ≠ 0 ∨ bit ep 15 ∨ zf = 3 ∨ pitch < row ∨ fld ep 30 2 ≠ 0 then some { cls := 0x19 }
    else if zf = 1 ∧ t % 2 = 1 then some { cls := 0x03 }
    else if doff % 16 ≠ 0 then some { cls := 0x05, addr := doff }
    else if c.win < doff + (rows - 1) * pitch + row then some { cls := 0x06, addr := doff }
    else if bit ep 5 ∧ c.win < fld sw 0 16 * 16 + ssz * rows then some { cls := 0x06, addr := fld sw 0 16 * 16 }
    else if bit ep 6 ∧ c.win < fld sw 16 16 * 16 + ssz * 128 then some { cls := 0x06, addr := fld sw 16 16 * 16 }
    else none

/-- Entries of a core's drain queue. -/
def State.drainLen (s : State) (core : Nat) : Nat := (s.drainQ.filter fun o => decide (o.core = core)).length

def newDrain (s : State) (l : Line) (k : DrainKind) : DrainOp :=
  { id := s.nextId, core := l.core, issuer := l.ref, part := l.part,
    rph := (match s.grid l.ref.grid with | some g => fld (g.pkt.getD 0 0) 8 2 | none => 0),
    det := (match s.grid l.ref.grid with | some g => bit (g.pkt.getD 0 0) 7 | none => false), kind := k, n := 0, state := .queued }

/-- MDRAIN: k(a + 1), which only a scaled epilogue reads, is checked with the other operands, before R40 (R289, R305). -/
def execMdrain (t : Fin 4) (a b : Fld) (s : State) : Out :=
  uniform (.mdrain t a b) (fun l => l.okKf false a && l.okKf false b) anyTy
    (fun s l => match l.pendingK (b.xregs false) with
      | some n => .wait s (.kreg n)
      | none =>
        let ep := l.kr b.num
        let scaled := bit ep 5 || bit ep 6
        if scaled && decide (l.kregs ≤ a.num + 1) then .trap { cls := 0x03 }
        else if !l.fullMask then .trap { cls := 0x15 }
        else
          match l.pendingK (a.num :: if scaled then [a.num + 1] else []), s.cset (setOf l.ref) with
          | some n, _ => .wait s (.kreg n)
          | none, none => .trap { cls := 0x06 }
          | none, some c =>
            let dw := l.kr a.num
            let sw := if scaled then l.kr (a.num + 1) else 0
            match mdrainFault c t dw sw ep with
            | some f => .trap f
            | none =>
              if s.acquiring l.ref then .wait s .acquire
              else if s.unconfirmed l.ref then .wait s .confirm
              else if 16 ≤ s.drainLen l.core then .wait s .drainRoom
              else if 16 ≤ (s.matQ.filter fun o => decide (o.core = l.core)).length then .wait s .matRoom
              else .ok { s with
                  drainQ := s.drainQ ++ [newDrain s l (.mdrain t dw sw ep l.lmode [] false)]
                  matQ := s.matQ ++ [{ id := s.nextId + 1, core := l.core, issuer := l.ref, kind := .mread s.nextId }]
                  nextId := s.nextId + 2 } l) s

/-- Whether every store and atomic that precedes an engine operation is complete (R186). -/
def State.priorDone (s : State) (r : LineRef) (id : Nat) : Bool :=
  (s.flight.all fun a => !(accOf a r && decide (a.id < id) && decide (a.kind ≠ .load))) &&
  ((s.bankQ ++ s.waitQ).all fun q => !(decide (q.issuer = r) && decide (q.id < id) &&
    (match q.op with | .load .. => false | .clear => false | _ => true))) &&
  s.fab.waits.all fun w => !(decide (w.issuer = r) && decide (w.id < id) && decide (w.kind ≠ .load) && w.done.isNone)

/-- The fault record of an engine operation (R163, R372, R373). -/
def State.engineRec (s : State) (issuer : LineRef) (handle queue cls addr elem : Nat) : Rec :=
  { cls, handle, queue, addr, elem, tick := s.time, uid := s.nextId
    gtag := match s.grid issuer.grid with | some g => fld (g.pkt.getD 1 0) 16 16 | none => 0 }

/-- A drain operation stops at a fault: its record is written or held, and its line hears of it (R163, R373). -/
def stopDrain (s : State) (o : DrainOp) (cls addr elem : Nat) : State :=
  let r := s.engineRec o.issuer (queueHandle o.core 4) 4 cls addr elem
  let w := s.engineRecord o.part r
  let s := w.1.dropFault (coreDie o.core) o.part false addr
  let stop (d : DrainOp) : DrainOp := { d with state := .stopped cls addr, n := elem, base := o.base, flags := o.flags }
  { s with drainQ := upd (fun d => decide (d.id = o.id)) stop s.drainQ }.queueErr o.issuer 4 w.2

/-- Elements written in ascending order, until one meets a barrier granule (R159, R163). -/
def writeElems (set : SetRef) (size : Nat) : List (Nat × Nat × Nat) → State → State × Option (Nat × Nat)
  | [], s => (s, none)
  | (e, off, v) :: r, s =>
    match s.cset set with
    | none => (s, none)
    | some c =>
      if c.isMark (off / 16) then (s, some (e, off))
      else writeElems set size r (s.engineSpad set off (bytesOf v size))

/-- The value of a tile element under ZF. -/
def zValue (zf : Nat) (v : DWord) : FV :=
  if zf = 1 then Fmt.f64.value v.toNat
  else if zf = 2 then .fin (Ex.ofInt (BitVec.ofNat 32 v.toNat).toInt)
  else Fmt.f32.value (v.toNat % 2 ^ 32)

/-- v times the scales in effect, exactly, one after another; NaNs in the order z, rs, cs (R306). (DEDUCED, assumption 66.) -/
def drainValue (z : FV) (ss : List FV) : FV × Flags :=
  ss.foldl (fun acc x =>
    if acc.1.isNan then acc
    else if x.isNan then (x, acc.2)
    else match acc.1.mul x with | some v => (v, acc.2) | none => (.defNan, acc.2 ||| fV))
    (z, if (z :: ss).any FV.isSig then fV else 0)

/-- One drained element: its code and flags (R306). -/
def drainElem (ot : Ty) (zf : Nat) (lm : Word) (z : DWord) (ss : List FV) : Nat × Flags :=
  let rm : Rm := if fld lm 9 3 = 5 then .rne else Rm.ofCode (fld lm 9 3)
  let v := drainValue (zValue zf z) ss
  if ot.isInt then
    if zf = 2 ∧ ss = [] then
      ((BitVec.ofInt 32 (intResult (bit lm 13) (BitVec.ofNat 32 z.toNat).toInt ot.bits ot.sgn)).toNat % 2 ^ ot.bits, 0)
    else
      let r := toIntType v.1 ot.bits ot.sgn rm
      ((BitVec.ofInt 64 r.1).toNat % 2 ^ ot.bits, v.2 ||| r.2)
  else
    let r := roundFV ot.fmt rm (bit lm 14) v.1
    (r.1, v.2 ||| r.2)

/-- A drain operation completes: its flags reach the line and it leaves the queue (R294). -/
def endDrain (s : State) (o : DrainOp) (fl : Flags) : State :=
  ({ s with drainQ := s.drainQ.filter fun d => decide (d.id ≠ o.id) }.updLineAll o.issuer fun l => l.orKstat fl).reap

/-- DRAIN_OPERATION: the head of the core's drain queue, an MDRAIN, computes and writes its rows (R306). -/
def execDrainOperation (core : Nat) (s : State) : Out :=
  match s.drainQ.find? fun o => decide (o.core = core) with
  | some o =>
    match o.kind, s.cset (setOf o.issuer) with
    | .mdrain _ dw sw ep lm values true, some c =>
      match outType (fld ep 0 5) with
      | none => .next s
      | some ot =>
        if o.state.isStopped ∨ s.priorDone o.issuer o.id = false ∨ s.coreBusy core then .next s
        else
          let zf := fld ep 16 2
          let sf : Fmt := if zf = 1 then .f64 else .f32
          let ssz := if zf = 1 then 8 else 4
          let rs (i : Nat) : Option (Nat × FV) :=
            if bit ep 5 then let a := fld sw 0 16 * 16 + ssz * i; some (a, sf.value (c.read a ssz)) else none
          let cs (n : Nat) : Option (Nat × FV) :=
            if bit ep 6 then let a := fld sw 16 16 * 16 + ssz * n; some (a, sf.value (c.read a ssz)) else none
          let scales (e : Nat) : List (Nat × FV) := (rs (e / 128)).toList ++ (cs (e % 128)).toList
          let bad (e : Nat) : Option Nat := ((scales e).find? fun x => c.badGran.contains (x.1 / 16)).map (·.1)
          let all := List.range values.length
          let upTo := match all.find? fun e => (bad e).isSome with | some e => e | none => values.length
          let outs := (all.take upTo).map fun e => (e, drainElem ot zf lm (nth 0 values e) ((scales e).map (·.2)))
          let cells := outs.map fun p =>
            (p.1, fld dw 0 20 + p.1 / 128 * (fld ep 18 12 * 16) + p.1 % 128 * (ot.bits / 8), p.2.1)
          let w := writeElems (setOf o.issuer) (ot.bits / 8) (cells.filter fun x => decide (o.n ≤ x.1)) s
          match w.2 with
          | some (e, off) => .next (stopDrain w.1 o 0x0A off e)
          | none =>
            if upTo < values.length then .next (stopDrain w.1 o 0x14 ((bad upTo).getD 0) upTo)
            else .next (endDrain w.1 o (outs.foldl (fun fl p => fl ||| p.2.2) 0))
    | _, _ => .next s
  | none => .next s

/-! ### MMAS (R309, R310, R167) -/

/-- The faults of an MMAS whose descriptor cannot be read where its word puts it, in the order of R291: the address form of W, which R291 does
not place, then alignments, then the window. (DESIGN CHOICE, assumption 87.) -/
def mmasEarly (c : CSet) (wa doff : Nat) : Option FaultInfo :=
  if doff % 16 = 0 ∧ doff + 16 ≤ c.win then none
  else if 2 ^ 57 ≤ wa then some { cls := 0x04, addr := wa }
  else if doff % 16 ≠ 0 then some { cls := 0x05, addr := doff }
  else if wa % 256 ≠ 0 then some { cls := 0x05, addr := wa }
  else some { cls := 0x06, addr := doff }

/-- The faults of MMAS's descriptor and of its weight address, in the order of R291 (R309). The address form of W, which R291 does not place,
comes after the matrix-word fault and before the alignments. (DESIGN CHOICE, assumption 87.) -/
def mmasFault (c : CSet) (ty : Ty) (wa : Nat) (d : Vector Word 4) : Option FaultInfo :=
  let w (i : Nat) : Word := d.getD i 0
  let es := matBits ty / 8
  let k := fld (w 1) 0 16 + 1
  let n := fld (w 1) 16 16 + 1
  let xoff := fld (w 0) 0 20
  let yoff := fld (w 3) 0 20
  let pitch := fld (w 2) 0 24
  if fld (w 0) 20 2 = 3 ∨ fld (w 0) 22 10 ≠ 0 ∨ fld (w 2) 24 8 ≠ 0 ∨ pitch = 0 ∨ pitch < (k * es + 255) / 256 ∨
      fld (w 3) 20 12 ≠ 0 then some { cls := 0x19 }
  else if 2 ^ 57 ≤ wa then some { cls := 0x04, addr := wa }
  else if wa % 256 ≠ 0 then some { cls := 0x05, addr := wa }
  else if xoff % 16 ≠ 0 then some { cls := 0x05, addr := xoff }
  else if yoff % 16 ≠ 0 then some { cls := 0x05, addr := yoff }
  else if c.win < xoff + k * es then some { cls := 0x06, addr := xoff }
  else if c.win < yoff + 4 * n then some { cls := 0x06, addr := yoff }
  else none

/-- MMAS. An uncorrectable error in its descriptor's granule is a precise fault, before the descriptor is checked. (DESIGN CHOICE, assumption 87.) -/
def execMmas (a b : Fld) (s : State) : Out :=
  matrixForm (.mmas a b) (fun l => l.okK2 a && l.okKf false b) mmasTypes
    (fun s l => match l.pendingK ([a.num, a.num + 1] ++ b.xregs false) with
      | some n => .wait s (.kreg n)
      | none =>
        let wa := (l.kr (a.num + 1) ++ l.kr a.num : DWord).toNat
        let doff := fld (l.kr b.num) 0 20
        match s.cset (setOf l.ref) with
        | none => .trap { cls := 0x06 }
        | some c =>
          let st := stairOf l.d0 l.d1
          if stairUnfit l.d1 l.ty || (!stairDef l.d1 && (st.mx || st.l3f)) then .trap { cls := 0x12 }
          else if fld (l.kr b.num) 20 12 ≠ 0 then .trap { cls := 0x19 }
          else match mmasEarly c wa doff with
          | some f => .trap f
          | none =>
          if s.acquiring l.ref then .wait s .acquire
          else if s.unconfirmed l.ref then .wait s .confirm
          else if s.ownBank l.ref c.ref (doff / 16) then .wait s (.order c.ref (doff / 16))
          else if s.bankBusy c doff then .wait s (.bankRoom c.core (CSet.bankOf doff))
          else if c.badGran.contains (doff / 16) then .trap { cls := 0x14, addr := doff }
          else
            let d : Vector Word 4 := Vector.ofFn fun i : Fin 4 => BitVec.ofNat 32 (c.read (doff + 4 * i) 4)
            match mmasFault c l.ty wa d with
            | some f => .trap f
            | none =>
              if 16 ≤ s.drainLen l.core then .wait s .drainRoom
              else .ok { s with drainQ := s.drainQ ++ [newDrain s l (.mmas wa d l.ty l.d0 l.d1 [] false)], nextId := s.nextId + 1 } l) s

/-- The pages (64 KiB steps) that a row-wise walk of W touches, in ascending row, with the row. -/
def mmasPages (wa pitch rowB n : Nat) : List (Nat × Nat) :=
  (List.range n).flatMap fun r =>
    let lo := wa + r * pitch
    (List.range ((lo + rowB - 1) / 0x10000 + 1 - lo / 0x10000)).map fun p =>
      (r, if p = 0 then lo else (lo / 0x10000 + p) * 0x10000)

/-- What the translation of W comes to. -/
inductive WRange where
  | ok (pa : Nat)
  /-- the row that meets a miss, or a fault, and where row 0 lies when every row below it passed -/
  | miss (va row : Nat) (base : Option Nat)
  | fault (cls va row : Nat) (base : Option Nat)

/-- The row up to which W may be read, of `n`. -/
def WRange.rows (n : Nat) : WRange → Nat
  | .ok _ => n
  | .miss _ row _ => row
  | .fault _ _ row _ => row
/-- Where row 0 lies, once it has passed. -/
def WRange.base : WRange → Option Nat
  | .ok pa => some pa
  | .miss _ _ b => b
  | .fault _ _ _ b => b

/-- The physical address of a leaf (R399). -/
def TlbEnt.pa (e : TlbEnt) (va : Nat) : Nat := bitsAt e.entry 8 49 * 256 + va % 2 ^ levelShift e.level

/-- Pages of W's range, through the shared TLB (R406): every page translates, passes its checks, and lies in line with the first in one stack's
window (R167, R310). -/
def State.wRange (s : State) (core part wa : Nat) (user : Bool) : List (Nat × Nat) → Option Nat → WRange
  | [], some pa => .ok pa
  | [], none => .ok 0
  | (row, va) :: rest, base =>
    match s.tlbFind none (coreDie core) part false va with
    | none =>
      match s.translate none (coreDie core) part false va false user with
      | .fault c => .fault c va row base
      | _ => .miss va row base
    | some e =>
      match s.leafTarget e va false user false with
      | .fault c => .fault c va row base
      | .hit (.host _) _ => .fault 0x19 va row base
      | _ =>
        let pa := e.pa va
        let first := base.getD pa
        if decide (0x8000000000 ≤ pa) && decide (pa < 0xE000000000) && decide (pa - 0x8000000000 - (first - 0x8000000000) = va - wa) &&
            decide (first ≤ pa) &&
            decide ((pa - 0x8000000000) / 0xC00000000 = (first - 0x8000000000) / 0xC00000000) then
          s.wRange core part wa user rest (some first)
        else .fault 0x19 va row base

/-- One output of MMAS (R143): the stair from +0.0 over the products of a row of W and x. -/
def mmasOut (ty : Ty) (d0 d1 : Word) (w x : List Nat) : ElemSum :=
  let f := ty.fmt
  let st := stairFor d0 d1 ty
  if st.chain then chained .f32 0 (List.zipWith (fun a b => (f.value a, f.value b)) w x)
  else
    let ps := List.zipWith (fun a b => product (f.value a) (f.value b)) w x
    let r := leveled st .f32 0 (ps.map (·.1)) []
    { r with fl := ps.foldl (fun fl p => fl ||| p.2) r.fl }

/-- MMAS_OPERATION: the head of the core's drain queue, an MMAS, reads x and W and writes y (R310), row by row: a row whose page has to be walked
waits, those below it are done, so that W may take more pages than the TLB holds (R403). A fault of W names the lowest row that meets it, and
the elements of y below it are written (R163). A weight that an incomplete store writes reads as its slice holds it at the step (R167; DESIGN
CHOICE, assumption 67). -/
def execMmasOperation (core : Nat) (s : State) : Out :=
  match s.drainQ.find? fun o => decide (o.core = core) with
  | some o =>
    match o.kind, s.cset (setOf o.issuer) with
    | .mmas wa d ty d0 d1 x0 read, some c =>
      let w (i : Nat) : Word := d.getD i 0
      let es := matBits ty / 8
      let k := fld (w 1) 0 16 + 1
      let n := fld (w 1) 16 16 + 1
      let xoff := fld (w 0) 0 20
      let pitch := fld (w 2) 0 24 * 256
      let set := setOf o.issuer
      let gs := rangeGrans [(xoff, k * es)]
      if o.state.isStopped ∨ s.priorDone o.issuer o.id = false ∨ s.coreBusy core then .next s
      else if read = false then
        let who : LineRef := { o.issuer with line := 20 }
        if fld (w 0) 20 2 ≠ 0 ∧ (c.tileFull gs && s.tileTurn who set gs) = false then .next (s.listTile who set gs)
        else if c.badIn gs then .next (stopDrain (s.leaveTile who) o 0x14 ((gs.filter c.badGran.contains).foldl min (2 ^ 16) * 16) 0)
        else
          let s := if fld (w 0) 20 2 = 1 then (s.leaveTile who).updSet set fun c => gs.foldl CSet.setEmpty c else s.leaveTile who
          .next { s with drainQ := upd (fun q => decide (q.id = o.id)) (fun q =>
            { q with state := .started, kind := .mmas wa d ty d0 d1 (readBytes c.spad xoff (k * es)) true }) s.drainQ }
      else
        let user := match s.grid o.issuer.grid with | some g => !g.sup | none => true
        let r := s.wRange core o.part wa user ((mmasPages wa pitch (k * es) n).filter fun p => decide (o.n ≤ p.1)) o.base
        let pa := r.base.getD 0
        let lim := r.rows n
        let xa := x0.toArray
        let x := (List.range k).map (packed (matBits ty) xa)
        let rowAt (r : Nat) : Nat := pa + r * pitch
        let badRow (r : Nat) : Bool := (List.range ((k * es + 255) / 256)).any fun b => s.badRead (canon (rowAt r + b * 256)) (min 256 (k * es - b * 256))
        let todo := (List.range lim).filter fun r => decide (o.n ≤ r)
        let upTo := match todo.find? badRow with | some r => r | none => lim
        let outs := (todo.filter fun r => decide (r < upTo)).map fun r =>
          (r, mmasOut ty d0 d1 ((List.range k).map fun e => leNat ((List.range es).map fun i => readByte s.dev (canon (rowAt r + e * es + i)))) x)
        let wr := writeElems set 4 (outs.map fun p => (p.1, fld (w 3) 0 20 + 4 * p.1, p.2.z)) s
        let o := { o with base := r.base, flags := outs.foldl (fun fl p => fl ||| p.2.fl) o.flags }
        match wr.2, r with
        | some (e, off), _ => .next (stopDrain wr.1 o 0x0A off e)
        | none, r =>
          if upTo < lim then .next (stopDrain wr.1 o 0x14 (wa + upTo * pitch) upTo)
          else
            match r with
            | .fault cls va row _ => .next (stopDrain wr.1 o cls va row)
            | .miss va row _ =>
              let t := (wr.1.startWalk none (coreDie core) o.part false va false user).2
              .next { t with drainQ := upd (fun d => decide (d.id = o.id)) (fun _ => { o with n := max o.n row }) t.drainQ }
            | .ok _ => .next (endDrain wr.1 o o.flags)
    | _, _ => .next s
  | none => .next s

end Sys2Proof.Machine
end

