-- ==== Sys2Proof/Machine/Bank.lean ====
section
/-!
DEFINITION. Banks: barrier objects (R158 to R160, R189 to R191, R272 to R276), the serving of a bank's queue with tags and
waiters (R150 to R154), scratchpad atomics (R178).
-/
namespace Sys2Proof.Machine

/-! ### Barrier objects -/

/-- The fields of a barrier granule (R158). -/
structure BarObj where
  txc : Int
  ainit : Nat
  aleft : Nat
  phase : Bool
  valid : Bool
  inval : Bool
  err : Nat
  wait : Nat
  phcnt : Nat
deriving DecidableEq, Repr

def BarObj.zero : BarObj :=
  { txc := 0, ainit := 0, aleft := 0, phase := false, valid := false, inval := false, err := 0, wait := 0, phcnt := 0 }

/-- The fields from the 16 bytes of a granule, least significant first. -/
def BarObj.ofNat (v : Nat) : BarObj :=
  { txc := (BitVec.ofNat 32 v).toInt, ainit := bitsAt v 32 16, aleft := bitsAt v 48 16, phase := v.testBit 64,
    valid := v.testBit 65, inval := v.testBit 66, err := bitsAt v 72 8, wait := bitsAt v 80 16, phcnt := bitsAt v 96 32 }

/-- The 16 bytes of the fields. -/
def BarObj.toNat (b : BarObj) : Nat :=
  (BitVec.ofInt 32 b.txc).toNat + b.ainit % 65536 * 2 ^ 32 + b.aleft % 65536 * 2 ^ 48 + (if b.phase then 2 ^ 64 else 0) +
  (if b.valid then 2 ^ 65 else 0) + (if b.inval then 2 ^ 66 else 0) + b.err % 256 * 2 ^ 72 + b.wait % 65536 * 2 ^ 80 +
  b.phcnt % 2 ^ 32 * 2 ^ 96

/-- The barrier at a granule; a granule that is no barrier granule reads as all zero (R160). -/
def CSet.bar (c : CSet) (g : Nat) : BarObj := if c.isMark g then .ofNat (c.read (g * 16) 16) else .zero
/-- Writes the fields of a barrier granule. -/
def CSet.setBar (c : CSet) (g : Nat) (b : BarObj) : CSet := c.write (g * 16) (bytesOf b.toNat 16)

/-- What a barrier update comes to (R160). -/
inductive BarRes where
  | ok (b : BarObj) (completed : Bool)
  /-- dropped and counted, from an engine -/
  | dropped (b : BarObj)
  | fault (cls : Nat)
deriving DecidableEq, Repr

/-- barrier_update of R160. -/
def BarObj.update (b : BarObj) (arrive : Nat) (bytes : Int) (engine : Bool) : BarRes :=
  let counted := { b with err := min 255 (b.err + 1) }
  if !b.valid then (if engine then .dropped counted else .fault 0x0B)
  else if b.aleft < arrive ∨ b.txc + bytes < -(2 ^ 31 : Nat) ∨ (2 ^ 31 : Nat) - 1 < b.txc + bytes then
    (if engine then .dropped counted else .fault 0x0C)
  else
    let b := { b with aleft := b.aleft - arrive, txc := b.txc + bytes }
    if b.aleft = 0 ∧ b.txc = 0 then
      .ok { b with phase := !b.phase, phcnt := (b.phcnt + 1) % 2 ^ 32, aleft := b.ainit } true
    else .ok b false

/-- A parked BARWAIT of a granule. -/
def BankReq.parkedAt (q : BankReq) (r : SetRef) (g : Nat) : Bool :=
  decide (q.set = r) && decide (q.off / 16 = g) && (match q.op with | .barWait _ => true | _ => false)

/-- The line goes on after its thread's step: to the next thread of the issue mask, or to the next instruction (R274). -/
def State.advance (s : State) (r : LineRef) (j : Nat) : State :=
  match s.line r with
  | none => s
  | some l =>
    match (l.issueMask.filter fun k => decide (j < k)).head? with
    | some k => s.setLine { l with status := .ready, tri := k }
    | none => s.finish l

/-- A BARWAIT returns `v` to its predicate, and its line goes on (R275). -/
def State.barReturn (s : State) (q : BankReq) (p : Fin 8) (v : Bool) : State :=
  (s.updLine q.issuer fun l => l.setP q.thread p v).advance q.issuer q.thread

/-- Releases every line parked on a barrier, in the step that completes its phase or invalidates it: each lowers WAIT by one and
returns `v`, 0 at a phase completion, 1 at a BARINV (R160, R190, R275). (DEDUCED, assumption 18.) -/
def State.wakeBar (s : State) (r : SetRef) (g : Nat) (v : Bool) : State :=
  let ws := s.waitQ.filter fun q => q.parkedAt r g
  let s := s.updSet r fun c => let b := c.bar g; c.setBar g { b with wait := b.wait - ws.length }
  ws.foldl (fun s q => match q.op with | .barWait p => s.barReturn q p v | _ => s)
    { s with waitQ := s.waitQ.filter fun q => !q.parkedAt r g }

/-- Stores an updated barrier, and releases its waiters with `v` when they are to go on. -/
def State.putBar (s : State) (r : SetRef) (g : Nat) (b : BarObj) (wake : Option Bool) : State :=
  let s := s.updSet r fun c => c.setBar g b
  match wake with
  | some v => s.wakeBar r g v
  | none => s

/-- What a completed phase returns to the waiters. -/
def phaseWake (done : Bool) : Option Bool := if done then some false else none

/-- An engine's byte count at a barrier; the class of the error record when the count is dropped: the granule is no barrier granule (R160), or
it carries an uncorrectable error, so that its fields cannot be read (R411; DESIGN CHOICE, assumption 86). -/
def State.engineCount (s : State) (r : SetRef) (g : Nat) (bytes : Int) : State × Option Nat :=
  match s.cset r with
  | none => (s, none)
  | some c =>
    if !c.isMark g then (s, some 0x0B)
    else if c.badGran.contains g then (s, some 0x14)
    else
      match (c.bar g).update 0 bytes true with
      | .ok b done => (s.putBar r g b (phaseWake done), none)
      | .dropped b => (s.putBar r g b none, none)
      | .fault _ => (s, none)

/-! ### A barrier instruction's step -/

/-- The address that a request's thread formed: its offset, with the member for the gallery (R145). -/
def State.reqAddr (s : State) (q : BankReq) : Nat :=
  if q.gal then (match s.cset q.set with | some c => (q.set.set - c.hall) * 0x100000 | none => 0) + q.off else q.off

/-- A fault of a barrier instruction, precise at its thread. -/
def State.barFault (s : State) (q : BankReq) (cls : Nat) : State :=
  match s.line q.issuer with
  | none => s
  | some l => s.trapEntry l { cls, addr := s.reqAddr q + (match q.op with | .barWait _ => q.val | _ => 0) } q.pc q.thread q.pc q.word q.thread

/-- A copy of the same core that names the granule as its barrier and has not completed (R189). -/
def State.barNamed (s : State) (c : CSet) (g : Nat) : Bool :=
  s.copyQ.any fun o => decide (o.core = c.core) && o.ben && decide (o.bgr = g) &&
    (match s.cset (setOf o.issuer) with
     | some own => (s.copyBarSets own o.dst o.mmask).any fun m => match m with | some m => decide (m.ref = c.ref) | none => false
     | none => false)

/-- One step of a barrier instruction in bank order (R191). Where the granule of a barrier carries an uncorrectable error, its fields cannot be
read: the instruction faults precisely (R411; DESIGN CHOICE, assumption 86). -/
def barServe (s : State) (c : CSet) (q : BankReq) : State :=
  let g := q.off / 16
  let b := c.bar g
  if c.isMark g && c.badGran.contains g then s.barFault q 0x14 else
  match q.op with
  | .barInit =>
    if (b.valid && (decide (b.wait ≠ 0) || decide (b.txc ≠ 0) || decide (b.aleft ≠ b.ainit))) || s.barNamed c g then s.barFault q 0x0D
    else if q.val < 1 ∨ 65535 < q.val then s.barFault q 0x0E
    else
      let nb : BarObj := { txc := 0, ainit := q.val, aleft := q.val, phase := b.phase, valid := true, inval := false, err := 0,
                           wait := 0, phcnt := b.phcnt }
      ((s.updSet c.ref fun c => { c with marks := if c.marks.contains g then c.marks else g :: c.marks }).putBar c.ref g nb none).advance
        q.issuer q.thread
  | .barArrive =>
    match b.update 1 (BitVec.ofNat 32 q.val).toInt false with
    | .ok b done => (s.putBar c.ref g b (phaseWake done)).advance q.issuer q.thread
    | .dropped _ => s.advance q.issuer q.thread
    | .fault cls => s.barFault q cls
  | .barInv =>
    if !b.valid then s.barFault q 0x0B
    else (s.putBar c.ref g { b with valid := false, inval := true } (some true)).advance q.issuer q.thread
  | .barWait p =>
    if b.inval then s.barReturn q p true
    else if !b.valid then s.barFault q 0x0B
    else if b.phase ≠ decide (q.val = 1) then s.barReturn q p false
    else
      let s := s.updSet c.ref fun c => c.setBar g { b with wait := b.wait + 1 }
      { s with waitQ := s.waitQ ++ [q] }.updLine q.issuer fun l => { l with status := .wait .barrier }
  | _ => s

/-! ### BANK_SERVE -/

/-- The value that a bank returns travels to its register (R151). -/
def State.bankReturn (s : State) (q : BankReq) (kind : AccKind) (dst : Option Nat) (sx acq : Bool) (val : Nat) (failed : Option Rec) : State :=
  match s.line q.issuer with
  | none => s
  | some l =>
    { s with
      flight := s.flight ++ [{
        id := q.id, issuer := .line q.issuer q.thread, part := l.part, grid := q.set.grid, set := q.issuer.set, core := l.core, kind,
        phase := .performed 0, va := q.off, place := .spad q.set q.off, size := q.size, val, cmp := 0, dst, sx, acq, rel := none,
        staged := false, prov := false, ino := l.issueNo, pc := q.pc, word := q.word, check := [], trans := [], failed }] }

/-- The record of bad data that a request read. -/
def State.badReq (s : State) (q : BankReq) : Option Rec :=
  (s.line q.issuer).map fun l => { (badData l (s.reqAddr q) q.pc q.word q.thread s.time) with uid := q.id }

/-- What a bank serves to an access that waited in the granule's list: the granule's 16 bytes, and with `.take` the granule itself
(R154). A line or a copy that no longer waits there takes nothing. -/
def State.grantTicket (s : State) (c : CSet) (q : BankReq) (take : Bool) : State :=
  let g := q.off / 16
  let given : Run × Nat := ({ set := c.ref, gran := g, id := q.run }, c.read (g * 16) 16)
  let held (s : State) : State := if take then s.updSet c.ref fun c => c.take g q.run else s
  match s.line q.issuer with
  | some l =>
    if decide (l.status = .wait (.granule c.ref g 0)) || (match l.status with | .wait (.mma _) => true | _ => false) then (held s).updLine l.ref fun l => { l with grants := given :: l.grants } else s
  | none =>
    if s.copyQ.any fun o => decide (o.id = q.val) && decide (o.state = .started) then
      { held s with copyQ := upd (fun o => decide (o.id = q.val)) (fun o => { o with grant := some given }) s.copyQ }
    else s

/-- A request that the bank serves now, taken out of its queue. -/
def serve (s : State) (c : CSet) (q : BankReq) : State :=
  let g := q.off / 16
  let parked : State := { s with waitQ := s.waitQ ++ [q] }
  match q.op with
  | .load tag dst sx acq =>
    if s.behind q || (decide (tag ≠ .any) && s.behindTile q) then parked
    else if (tag = .take ∧ c.available g q.run = false) ∨ (tag = .keep ∧ (c.isFull g && (c.holder g).isNone) = false) then parked
    else if c.badGran.contains g then s.bankReturn q .load dst sx acq 0 (s.badReq q)
    else
      let s := if tag = .take then s.updSet c.ref fun c => c.take g q.run else s
      s.bankReturn q .load dst sx acq (c.read q.off q.size) none
  | .store fill _ =>
    if s.behind q then parked
    else if c.isMark g then
      match s.line q.issuer with
      | some l => s.queueErr l.ref 6
          { FaultInfo.record { cls := 0x0A, addr := s.reqAddr q, elem := q.thread } l q.thread q.pc q.word s.time with uid := q.id }
      | none => s
    else
      let s := s.updSet c.ref fun c => c.write q.off (bytesOf q.val q.size)
      if fill then s.fill c.ref g else s
  | .atomic op ty dst cmp _ acq =>
    if s.behind q then parked
    else if c.isMark g then
      let r := (s.line q.issuer).map fun l => FaultInfo.record { cls := 0x0A, addr := s.reqAddr q, elem := q.thread } l q.thread q.pc q.word s.time
      s.bankReturn q (.atomic op ty) dst false acq 0 (r.map fun r => { r with uid := q.id })
    else if c.badGran.contains g then s.bankReturn q (.atomic op ty) dst false acq 0 (s.badReq q)
    else
      let old := c.read q.off q.size
      let s := match atomNew op ty old q.val cmp with
        | some v => s.updSet c.ref fun c => c.write q.off (bytesOf v q.size)
        | none => s
      s.bankReturn q (.atomic op ty) dst false acq old none
  | .clear =>
    if s.behind q then parked
    else if c.holder g = some q.run then s.updSet c.ref fun c => c.setEmpty g
    else s
  | .tile => parked
  | .ticket take =>
    if s.behind q || s.behindTile q then parked
    else if (c.isFull g && (c.holder g).isNone) = false then parked
    else s.grantTicket c q take
  | _ => barServe s c q

/-- BANK_SERVE: the first request of the bank's queue that the bank may serve is served (R150). -/
def execBankServe (core bank : Nat) (s : State) : Out :=
  match takeFirst (s.bankReady core bank) s.bankQ with
  | none => .next s
  | some (q, rest) =>
    match s.cset q.set with
    | none => .next { s with bankQ := rest }
    | some c => .next (serve { s with bankQ := rest } c q).reap

end Sys2Proof.Machine
end

