-- ==== Sys2Proof/Machine/Control.lean ====
section
/-!
DEFINITION. Meanings of the control instructions (12_isa_control.md).
-/
namespace Sys2Proof.Machine

/-- A line-uniform instruction whose function sets the next pc itself. -/
def uniformTo (i : Instr) (operands : Line → Bool) (f : State → Line → TRes) (s : State) : Out :=
  onLine s fun l =>
    if !operands l then .next (faultAt s l i 0 { cls := 0x03 })
    else
      match f s l with
      | .ok s' l' => .next ((s'.endRun l').setLine { l'.next with pc := l'.pc, takeRun := none })
      | .wait s' w => .next (s'.park l w 0)
      | .trap fi => .next (faultAt s l i 0 fi)
      | .done s' => .next s'

/-- A direct target: pc plus four times the signed offset (R202, R314). -/
def target {n : Nat} (pc : Word) (o : BitVec n) : Word := pc + (o.signExtend 32 <<< 2)

def execJmp (o : BitVec 26) (s : State) : Out :=
  uniformTo (.jmp o) anyTy (fun s l => .ok s { l with pc := target l.pc o }) s

/-- CALL writes the link to k1 (R316). -/
def execCall (o : BitVec 26) (s : State) : Out :=
  uniformTo (.call o) (fun l => decide (2 ≤ l.kregs))
    (fun s l => match l.pendingK [1] with
      | some n => .wait s (.kreg n)
      | none => .ok s { l.setK 1 (l.pc + 4) with pc := target l.pc o }) s

def execRcv (o : BitVec 26) (s : State) : Out :=
  uniform (.rcv o) anyTy anyTy (fun s l => .ok s { l with ra := target l.pc o, rp := true }) s

/-- The active threads in which the branch is taken (R319). -/
def Line.taken (l : Line) (p : Nat) (inv : Bool) : DWord :=
  ((List.range l.width).filter fun j => l.isActive j && (l.p j p != inv)).foldl (fun m j => m ||| maskBit j) 0

/-- R50 on a line: the line after the branch, or the fault. RP is consumed in every case without a fault (R318). -/
def branch (l : Line) (t : DWord) (tgt : Word) : Except Nat Line :=
  let fall := l.pc + 4
  let l' := { l with rp := false }
  let n := l.active &&& ~~~t
  if t = 0 then .ok { l' with pc := fall }
  else if n = 0 then .ok { l' with pc := tgt }
  else if !l.rp then .error 0x1C
  else
    let need := if l.ra = l.crv then 1 else 2
    if 16 < l.depth + need then .error 0x1D
    else
      let l1 := if l.ra = l.crv then l' else l'.push { pc := l.ra, rcv := l.crv, mask := l.active }
      .ok { (l1.push { pc := tgt, rcv := l.ra, mask := t }) with active := n, crv := l.ra, pc := fall }

def execBr (p : Fin 8) (inv : Bool) (o : BitVec 22) (s : State) : Out :=
  uniformTo (.br p inv o) anyTy
    (fun s l => match branch l (l.taken p inv) (target l.pc o) with
      | .ok l' => .ok s l'
      | .error c => .trap { cls := c }) s

/-- JR; the record of its alignment fault names the offset k(a). (DESIGN CHOICE, assumption 103.) -/
def execJr (a : Fld) (s : State) : Out :=
  uniformTo (.jr a) (fun l => l.okKf false a)
    (fun s l => match l.pendingK [a.num] with
      | some n => .wait s (.kreg n)
      | none => if fld (l.kr a.num) 0 2 ≠ 0 then .trap { cls := 0x05, addr := (l.kr a.num).toNat }
        else .ok s { l with pc := l.kr a.num }) s

/-- CALLR; the record of its alignment fault names the offset k(a). (DESIGN CHOICE, assumption 103.) -/
def execCallr (d a : Fld) (s : State) : Out :=
  uniformTo (.callr d a) (fun l => l.okKf false d && l.okKf false a)
    (fun s l => match l.pendingK [a.num, d.num] with
      | some n => .wait s (.kreg n)
      | none => if fld (l.kr a.num) 0 2 ≠ 0 then .trap { cls := 0x05, addr := (l.kr a.num).toNat }
        else .ok s { l.setK d.num (l.pc + 4) with pc := l.kr a.num }) s

/-- The threads of EXIT and KILL leave one after another (R321); `kill` counts each. A thread that waits for a value waits here, since a failed one is
charged to its EXIT or KILL (R55). (DEDUCED, assumption 102.) -/
def leaveLoop (i : Instr) (kill : Bool) : List Nat → State → Line → State
  | [], s, l => s.afterLeave { l.next with takeRun := none }
  | j :: js, s, l =>
    match l.pend.find? (fun p => decide (p.1 = j)) with
    | some p => s.park l (.reg j p.2) j
    | none =>
      match l.failedAt j with
      | some f => faultAt s l i j (consumeFault j f.2.1 f.2.2)
      | none =>
        leaveLoop i kill js
          (if kill then s.updGrid l.ref.grid fun g => { g with killed := min (g.killed + 1) 0xFFFFFFFF } else s) (l.leave j)

/-- EXIT and KILL wait until every earlier write is confirmed (R321). -/
def leaveForm (i : Instr) (kill : Bool) (s : State) : Out :=
  onLine s fun l =>
    if s.unconfirmed l.ref then .next (s.park l .confirm l.tri)
    else .next (leaveLoop i kill l.issueThreads s l)

def execExit (s : State) : Out := leaveForm .exit false s
def execKill (s : State) : Out := leaveForm .kill true s

/-- YIELD ends the run (R37, R323): the issue slot reads `yielded` and, under GTO, the new age, younger than every other. -/
def execYield (s : State) : Out :=
  uniform .yield anyTy anyTy (fun s l =>
    .ok { s with nextId := s.nextId + 1 } { l with yielded := true, age := if l.policy = 0 then s.nextId else l.age }) s

/-- GROW's result and the new count (R47, R324). -/
def growOf (c d h : Nat) : Nat × Nat :=
  if d = 0 then (min c 0xFFFFFFFF, c)
  else if 2 ^ 32 < c + d then (0, c)
  else if d % h ≠ 0 then (0, c)
  else (c, c + d)

def execGrow (d a : Fld) (s : State) : Out :=
  uniform (.grow d a) (fun l => l.okKf false d && l.okKf false a) anyTy
    (fun s l =>
      if s.unconfirmed l.ref then .wait s .confirm
      else
        match l.pendingK [a.num, d.num] with
        | some n => .wait s (.kreg n)
        | none =>
          match s.grid l.ref.grid with
          | none => .ok s (l.setK d.num 0)
          | some g =>
            let r := growOf g.count (l.kr a.num).toNat (2 ^ fld (g.pkt.getD 0 0) 18 2)
            .ok (s.updGrid g.id fun g => { g with count := r.2 }) (l.setK d.num (BitVec.ofNat 32 r.1))) s

def execNop (s : State) : Out := uniform .nop anyTy anyTy (fun s l => .ok s l) s

/-- TRAP (R326): the lowest thread of the issue mask completes and the line enters the trap. TRI of the record is the line's tri at entry and
TMASK is that alone (R372); ELEM names the thread, as the logical index of R118. (DEDUCED, assumption 13.) -/
def execTrap (code : Fin 32) (s : State) : Out :=
  onLine s fun l =>
    match l.issueThreads with
    | [] => .next (s.finish l)
    | j :: rest =>
      if s.unconfirmed l.ref then .next (s.park l .confirm j)
      else
        let f : FaultInfo := { cls := 0x20, code := code, elem := j }
        match rest with
        | [] => .next (s.trapEntry l.next f (l.pc + 4) 0 l.pc (iword (.trap code)) 0)
        | k :: _ => .next (s.trapEntry l f l.pc k l.pc (iword (.trap code)) k)

/-- SCALL once its fence conditions hold (R327): an error record is taken instead of the call. -/
def scallTake (service : Fin 32) (s : State) (l : Line) : State :=
  match l.takeErr (fenceCovers .dev) with
  | some (e, l') => faultAt s l' (.scall service) 0 (asyncFault e)
  | none =>
    if s.unconfirmed l.ref then s.park l .confirm 0
    else s.trapEntry l.next { cls := 0x21, code := service } (l.pc + 4) 0 l.pc (iword (.scall service)) 0

def execScall (service : Fin 32) (s : State) : Out :=
  onLine s fun l =>
    if s.fenceOk l .dev s.nextId then .next (scallTake service s l) else .next (s.park l (.scall service) 0)

end Sys2Proof.Machine
end

