-- ==== Sys2Proof/Machine/Slice.lean ====
section
/-!
DEFINITION. Steps of the slices, the caches and the walkers: performing a global or host access (R164 to R172, R178, R181,
R194, R196), its acknowledgement or value (R172, R261), releases and fences (R173 to R176), leases (R164, R404), page-table
walks (R399 to R408), instruction fetch (R147, R314).
-/
namespace Sys2Proof.Machine

def Access.lineRef (a : Access) : Option LineRef := match a.issuer with | .line r _ => some r | _ => none
def Access.thread (a : Access) : Nat := match a.issuer with | .line _ j => j | _ => 0
def Access.isOpen (a : Access) : Bool := match a.phase with | .performed _ => false | _ => true
def Access.sentNow (a : Access) : Bool := match a.phase with | .sent => true | _ => false

/-! ### Performing an access -/

/-- Whether a push's turn has come: the earlier pushes of its port have completed (R184, R185). -/
def State.pushInTurn (s : State) (a : Access) : Bool :=
  match a.port, a.lineRef with
  | some (n, _), some r =>
    (s.flight.all fun b => !(decide (b.lineRef = some r) && decide (b.port.map Prod.fst = some n) && decide (b.id < a.id)) ||
      (match b.phase with | .performed g => decide (g ≤ s.time) | _ => false)) &&
    (match s.line r with | some l => decide ((l.port n).lastG ≤ s.time) | none => true)
  | _, _ => true

/-- Whether an access may be performed now: nothing of its line that must precede it is open (R52, R170, R181, R194, R196). -/
def State.mayPerform (s : State) (a : Access) : Bool :=
  let earlier (b : Access) : Bool := decide (b.id < a.id) && b.isOpen
  let sameLine (b : Access) : Bool := a.lineRef.isSome && decide (b.lineRef = a.lineRef)
  (s.flight.all fun b => !(earlier b && sameLine b && b.place.meets b.size a.place a.size &&
      !(decide (a.kind = .load) && decide (b.kind = .store)))) &&
  (match a.lineRef with | some r => !s.loopMeets r a.place a.size a.id | none => true) &&
  (decide (a.kind = .load) ||
    ((s.flight.all fun b => !(earlier b && sameLine b && decide (b.kind ≠ .load) &&
        ((match b.phase with | .unconfirmed _ => true | _ => false) || (a.prov && b.prov) ||
         (match a.place, b.place with | .host _, .host _ => true | _, _ => false)))) &&
     s.pushInTurn a &&
     (match a.lineRef with | some r => s.fab.waits.all fun w => !(w.isOpenWrite r && decide (w.id < a.id)) | none => true) &&
     (!a.staged ||
       (!s.heldByTicket { grid := a.grid, set := a.set } &&
        s.flight.all fun b => !(earlier b && b.staged && decide (b.grid = a.grid) && decide (b.set = a.set))))))

/-- The record of an uncorrectable error for an access of a line. -/
def State.badAccess (s : State) (a : Access) : Option Rec :=
  match a.lineRef with
  | none => none
  | some r => (s.line r).map fun l => { (badData l a.va a.pc a.word a.thread s.time) with uid := a.id }

/-- An access whose value no register takes counts the uncorrectable words that it meets (R411). -/
def State.noteUnread (s : State) (a : Access) (ca : Nat) : State :=
  if (match a.dst with | some n => decide (n ≠ 0) | none => false) then s else s.noteBad ca a.size

/-- Puts an access back with a new phase, value and failure. -/
def State.setAccess (s : State) (a : Access) : State := { s with flight := upd (fun b => decide (b.id = a.id)) (fun _ => a) s.flight }

/-- A grid's latest completion time (R199). -/
def State.gridG (s : State) (g t : Nat) : State := s.updGrid g fun x => { x with lastG := max x.lastG t }

/-- A load performed: the slice answers, and a core's copy is replaced (R164, R169, R176). -/
def performLoad (s : State) (a : Access) : State :=
  match a.place with
  | .dev ca =>
    if s.badRead ca a.size then (s.noteUnread a ca).setAccess { a with phase := .performed 0, failed := s.badAccess a }
    else
      let g := if a.acq then (s.l2Rec (lineOf ca)).done else 0
      let bs := match a.lineRef with
        | some r => s.overlay r a.id (.dev ca) (readBytes s.dev ca a.size)
        | none => readBytes s.dev ca a.size
      let s := s.fetchL1 a.core a.part (lineOf ca)
      let s := match a.lineRef with
        | some r => s.updLine r fun l =>
            if l.issueNo = a.ino ∧ a.acq = false then { l with fetched := (lineOf ca, s.devLine (lineOf ca), s.badWords (lineOf ca)) :: l.fetched } else l
        | none => s
      s.setAccess { a with phase := .performed g, val := leNat bs }
  | .host h =>
    let bs := match a.lineRef with
      | some r => s.overlay r a.id (.host h) (readBytes s.hostMem h a.size)
      | none => readBytes s.hostMem h a.size
    s.setAccess { a with phase := .performed 0, val := leNat bs }
  | .spad .. => s

/-- A line's own write also reaches what its running load instruction has fetched of the 128-byte line (R52, R170). -/
def State.patchFetched (s : State) (r : Option LineRef) (ca : Nat) (bs : List Byte) : State :=
  match r with
  | some r => s.updLine r fun l => { l with fetched := l.fetched.map fun e => if e.1 = lineOf ca then (e.1, patch e.2.1 (ca % 128) bs, e.2.2) else e }
  | none => s

/-- A store performed at its point of coherence (R164, R165, R181). -/
def performStore (s : State) (a : Access) : State :=
  match a.place with
  | .dev ca =>
    let g := s.gwct ca
    (((s.devWrite (a.lineRef.map fun _ => a.core) ca (bytesOf a.val a.size)).patchFetched a.lineRef ca (bytesOf a.val a.size)).gridG a.grid g).setAccess
      { a with phase := .performed g, late := s.tabRefs ca }
  | .host h => { s with hostMem := writeBytes s.hostMem h (bytesOf a.val a.size) }.gridG a.grid s.time |>.setAccess { a with phase := .performed s.time }
  | .spad .. => s

/-- What an atomic leaves in its core's L1: an acquire replaces the copy with the line and a new lease, another atomic updates the copy that
there is (R169, R176, R178). -/
def State.atomicL1 (s : State) (a : Access) (ln : Nat) : State :=
  if a.acq then s.fetchL1 a.core a.part ln else s.refreshL1 a.core ln

/-- An atomic performed as one read and write (R178, R267): its completion time, or its arrival tick when it writes nothing. In the same
step the core's L1 copy takes the slice's data, also when nothing is written (R169, R176, R178). -/
def performAtomic (s : State) (a : Access) (op : AtomOp) (ty : Ty) : State :=
  match a.place with
  | .dev ca =>
    if s.badRead ca a.size then (s.noteUnread a ca).setAccess { a with phase := .performed s.time, failed := s.badAccess a }
    else
      let old := readLe s.dev ca a.size
      let seen := if a.acq then (s.l2Rec (lineOf ca)).done else 0
      match atomNew op ty old a.val a.cmp with
      | some v =>
        let g := s.gwct ca
        ((((s.devWrite (some a.core) ca (bytesOf v a.size)).atomicL1 a (lineOf ca)).patchFetched a.lineRef ca (bytesOf v a.size)).gridG
          a.grid g).setAccess { a with phase := .performed (max g seen), val := old, late := s.tabRefs ca }
      | none => (s.atomicL1 a (lineOf ca)).setAccess { a with phase := .performed (max s.time seen), val := old }
  | .host h =>
    let old := readLe s.hostMem h a.size
    let s := match atomNew op ty old a.val a.cmp with
      | some v => { s with hostMem := writeBytes s.hostMem h (bytesOf v a.size) }.gridG a.grid s.time
      | none => s
    s.setAccess { a with phase := .performed s.time, val := old }
  | .spad .. => s

/-- An access that was translated under old contents of table lines is performed: the writes that changed those lines since complete no
earlier than now, and so do the times that the slices record of them (R172, R405). -/
def State.raiseTable (s : State) (a : Access) : State :=
  if a.trans.isEmpty then s
  else
    let hit (xs : List TabRef) : Bool := xs.any fun x => a.trans.any fun t => decide (t.1 = x.1) && decide (t.2 < x.2)
    let all := (s.flight.map Access.late).flatten ++ (s.copyQ.map CopyOp.late).flatten ++ (s.fab.late.map LateAck.refs).flatten ++ s.postedT ++
      (s.cxlWait.map Prod.snd).flatten ++ (s.grids.map Grid.late).flatten ++ (s.queues.map fun q => q.2.sigT).flatten
    { s with
      flight := s.flight.map fun b => match b.phase with
        | .performed g => if hit b.late then { b with phase := .performed (max g s.time) } else b
        | _ => b
      copyQ := s.copyQ.map fun o => if hit o.late then
          { o with lastG := max o.lastG s.time, state := match o.state with | .written g => .written (max g s.time) | st => st } else o
      fab := { s.fab with late := s.fab.late.map fun x => if hit x.refs then { x with g := max x.g s.time } else x }
      l2 := s.l2.map fun e => if all.any (fun x => decide (x.1 = e.line) && hit [x]) then { e with done := max e.done s.time } else e }

/-- A staged write of a copy, once performed, is the copy's own again: its completion time counts among the copy's (R185, R194). -/
def State.engineDone (s : State) (id : Nat) : State :=
  match s.flight.find? fun a => decide (a.id = id) with
  | some { phase := .performed g, issuer := .copy core queue r, late, .. } =>
    let mine (o : CopyOp) : Bool := decide (o.core = core) && decide (o.queue = queue) && decide (o.issuer = r)
    let more (o : CopyOp) : CopyOp :=
      { o with lastG := max o.lastG g, late := o.late ++ late, state := match o.state with | .written h => .written (max g h) | st => st }
    { s with
      flight := s.flight.filter fun a => decide (a.id ≠ id)
      copyQ := match s.copyQ.find? mine with
        | some o => upd (fun x => decide (x.id = o.id)) more s.copyQ
        | none => s.copyQ }
  | _ => s

def perform (s : State) (a : Access) : State :=
  ((match a.kind with
  | .load => performLoad s a
  | .store => performStore s a
  | .atomic op ty => performAtomic s a op ty).raiseTable a).engineDone a.id

/-- SLICE_PERFORM: an access that has arrived is performed; a plain load brings the other loads of its instruction to the
same 128-byte line with it (R259). One request is performed in a step; the requests of one cycle come in the order of R179 (State.inOrder), and the
schedule says which steps share a cycle. (DESIGN CHOICE, assumption 83.) -/
def execSlicePerform (id : Nat) (s : State) : Out :=
  match s.flight.find? fun a => decide (a.id = id) with
  | none => .next s
  | some a =>
    if a.sentNow && a.rel.isNone && s.mayPerform a then
      let same := s.flight.filter fun b => decide (a.kind = .load) && !a.acq && decide (b.kind = .load) && b.sentNow && decide (b.id ≠ a.id) &&
        decide (b.lineRef = a.lineRef) && decide (b.ino = a.ino) && s.mayPerform b &&
        (match a.place, b.place with | .dev x, .dev y => decide (lineOf x = lineOf y) | _, _ => false)
      .next (same.foldl perform (perform s a))
    else .next s

/-! ### Acknowledgements and values (R172, R261, R405) -/

/-- Whether the acknowledgement of a write to a table line must still wait (R405): the line's old contents are still in use. (DEDUCED, assumption 26.) -/
def State.tableWait (s : State) (a : Access) : Bool := !s.tabDone a.late

/-- A completion time that the line receives raises hd (R172). -/
def Line.raiseHd (l : Line) (g : Nat) : Line := { l with hd := max l.hd g }

/-- ACKNOWLEDGEMENT_RETURN: a store's, or a discarded atomic's, completion time reaches the line, which raises hd. -/
def execAcknowledgementReturn (id : Nat) (s : State) : Out :=
  match s.flight.find? fun a => decide (a.id = id) with
  | none => .next s
  | some a =>
    match a.phase, a.dst, a.kind with
    | .performed g, none, .store | .performed g, none, .atomic .. =>
      if s.tableWait a then .next s
      else
        let s := { s with flight := s.flight.filter fun b => decide (b.id ≠ id) }
        let s := match a.lineRef, a.place with
          | some _, .spad .. => s
          | some r, _ => s.updLineAll r fun l => (match a.port with
              | some (n, _) => l.updPort n fun p => { p with lastG := max p.lastG g }
              | none => l).raiseHd g
          | none, _ => s
        let s := match a.lineRef, a.failed with
          | some r, some e => s.queueErr r 6 e
          | _, _ => s
        .next (s.gridG a.grid g).reap
    | _, _, _ => .next s

/-- A loaded value in its register (R258). -/
def Line.deliver (l : Line) (j d size : Nat) (sx : Bool) (v : Nat) : Line :=
  let l := if size = 8 then l.setXd j d (BitVec.ofNat 64 v)
    else l.setX j d (if sx && decide (size < 4) then (BitVec.ofNat (8 * size) v).signExtend 32 else BitVec.ofNat 32 v)
  { l with pend := l.pend.filter fun p => !((regs (decide (size = 8)) d).any fun n => decide (p = (j, n))) }

/-- LOAD_RETURN: the value of a load or atomic reaches its register, or the register is marked as having received none. -/
def execLoadReturn (id : Nat) (s : State) : Out :=
  match s.flight.find? fun a => decide (a.id = id) with
  | none => .next s
  | some a =>
    match a.phase, a.lineRef with
    | .performed g, some r =>
      if decide (a.kind ≠ .load) && (a.dst.isNone || s.tableWait a) then .next s
      else
        let j := a.thread
        let s := { s with flight := s.flight.filter fun b => decide (b.id ≠ id) }
        let far := match a.place with | .spad .. => false | _ => true
        let rs := regs (decide (a.size = 8)) (a.dst.getD 0)
        let s := s.updLineAll r fun l =>
          let l := if far && (decide (a.kind ≠ .load) || a.acq) then { l with hd := max l.hd g } else l
          if !(rs.any fun n => l.pend.contains (j, n)) then l
          else
            match a.dst, a.failed with
            | some d, none => l.deliver j d a.size a.sx a.val
            | some _, some e =>
              { l with pend := l.pend.filter fun p => !(rs.any fun n => decide (p = (j, n)))
                       failed := l.failed ++ rs.map fun n => (j, n, e) }
            | none, _ => l
        let s := match a.dst, a.failed with
          | none, some e => s.queueErr r 6 e
          | _, _ => s
        .next (if a.kind = .load then s else s.gridG a.grid g).reap
    | _, _ => .next s

/-! ### Leases and evictions (R164, R165) -/

/-- LEASE_EXPIRY: an L1 copy whose lease has run out is gone. -/
def execLeaseExpiry (core line : Nat) (s : State) : Out :=
  .next { s with l1 := s.l1.filter fun e => !(decide (e.core = core) && decide (e.line = line) && decide (e.expiry ≤ s.time)) }

/-- L1_EVICT: an L1 may evict a line at any time. -/
def execL1Evict (core line : Nat) (s : State) : Out :=
  .next { s with l1 := s.l1.filter fun e => !(decide (e.core = core) && decide (e.line = line)) }

/-- L2_EVICT: the slice raises its lease horizon to the line's latest expiry. (DEDUCED, assumption 24.) -/
def execL2Evict (line : Nat) (s : State) : Out :=
  match s.l2Find line with
  | none => .next s
  | some e => .next (s.evictL2 [e])

/-! ### Provisional writes (R196, R197) -/

/-- R197: the fault of an earlier write. Every later access of the line is discarded, the line stands as it stood at that
thread, and it traps. -/
def discardFrom (s : State) (r : LineRef) (a : Access) (f : FaultInfo) : State :=
  let later (i : LineRef) (id : Nat) : Bool := decide (i = r) && decide (a.id ≤ id)
  let s := { s with
    flight := s.flight.filter fun b => !(decide (b.lineRef = some r) && decide (a.id ≤ b.id))
    bankQ := s.bankQ.filter fun q => !later q.issuer q.id
    waitQ := s.waitQ.filter fun q => !later q.issuer q.id }
  match a.check, s.line r with
  | old :: _, some now =>
    if now.status = .ended then s else
    let l := { old with age := now.age, waited := now.waited, starved := now.starved, yielded := now.yielded }
    let f := match decodeWord a.word with
      | .ok i => pageMask i l a.thread (match a.port with | some (n, e) => { f with port := some n, elem := e } | none => f)
      | .error _ => f
    s.trapEntry l f l.pc a.thread l.pc a.word a.thread
  | _, _ => s

/-- Whether an earlier write of the line is still unconfirmed. -/
def State.unconfirmedBefore (s : State) (r : LineRef) (id : Nat) : Bool :=
  s.flight.any fun b => decide (b.lineRef = some r) && decide (b.id < id) && (match b.phase with | .unconfirmed _ => true | _ => false)

/-- WRITE_CONFIRMED: the walk of a write has ended, and its translation and checks pass, or fault (R196, R197). -/
def execWriteConfirmed (id : Nat) (s : State) : Out :=
  match s.flight.find? fun a => decide (a.id = id) with
  | none => .next s
  | some a =>
    match a.phase, a.lineRef with
    | .unconfirmed w, some r =>
      if s.walks.any fun x => decide (x.id = w) then .next s
      else
        match s.line r with
        | none => .next s
        | some l =>
          let bad (cls : Nat) : Out :=
            if s.unconfirmedBefore r id then .next s else .next (discardFrom s r a { cls, addr := a.va })
          match s.translate (some l.core) (coreDie l.core) l.part false a.va true l.user with
          | .miss =>
            let w := s.startWalk (some l.core) (coreDie l.core) l.part false a.va true l.user
            .next (w.2.setAccess { a with phase := .unconfirmed w.1 })
          | .fault c => bad c
          | .hit (.spad ..) _ => bad 0x08
          | .hit (.host h) t => .next (s.setAccess { a with phase := .sent, place := .host h, trans := t, check := [] })
          | .hit (.dev ca) t =>
            let rph := match s.grid a.grid with | some g => fld (g.pkt.getD 0 0) 8 2 | none => 0
            if (s.part l.part).regionRefuses ca 1 l.gtag (some rph) then bad 0x09
            else .next (s.setAccess { a with phase := .sent, place := .dev ca, trans := t, check := [] })
    | _, _ => .next s

/-! ### Releases and fences (R173 to R175) -/

/-- A request that is held no more. -/
def BankReq.free (q : BankReq) : BankReq :=
  { q with op := match q.op with
      | .store fill _ => .store fill none
      | .atomic op ty dst cmp _ acq => .atomic op ty dst cmp none acq
      | op => op }

/-- A freed release enters its bank's queue behind what stands there (R150, R175); what waited for it follows it (R52, R159). -/
def freed (q : BankReq) (rest : List BankReq) : List BankReq :=
  let after (p : BankReq) : Bool := decide (q.id < p.id) && decide (p.set = q.set) && decide (p.off / 16 = q.off / 16) &&
    (decide (p.issuer = q.issuer) || decide (p.op = .barInit))
  (rest.filter fun p => !after p) ++ [q.free] ++ rest.filter after

/-- RELEASE_PERFORM: a held release whose conditions hold is performed at its slice, enters its bank's queue when that has room, or leaves for
its peer. -/
def execReleasePerform (id : Nat) (s : State) : Out :=
  match s.flight.find? fun a => decide (a.id = id) with
  | some a =>
    match a.rel, a.lineRef.bind s.line with
    | some sc, some l => if a.sentNow && s.fenceOk l sc a.id && s.mayPerform a then .next (perform s a) else .next s
    | _, _ => .next s
  | none =>
    match takeFirst (fun q => decide (q.id = id) && q.held) s.bankQ with
    | some (q, rest) =>
      let sc := match q.op with | .store _ (some sc) => sc | .atomic _ _ _ _ (some sc) _ => sc | _ => .line
      match s.line q.issuer, s.cset q.set with
      | some l, some c =>
        if s.fenceOk l sc q.id && decide (s.bankLoad c.core (CSet.bankOf q.off) < 16) then .next { s with bankQ := freed q rest } else .next s
      | _, _ => .next s
    | none =>
      match s.fab.sendQ.find? fun e => decide (e.id = id) with
      | some e =>
        match e.held, e.issuer.bind s.line with
        | some sc, some l =>
          if s.fenceOk l sc id then .next (s.updFab fun f => { f with
            sendQ := upd (fun x => decide (x.id = id)) (fun x => { x with held := none }) f.sendQ })
          else .next s
        | _, _ => .next s
      | none => .next s

/-- FENCE_COMPLETE: a waiting FENCE, QFENCE, IFENCE or SCALL whose conditions hold completes. One whose set is being pre-empted stops where it
is, and its line resumes at it with tri 0 (R329, R379). -/
def execFenceComplete (r : LineRef) (s : State) : Out :=
  match s.line r with
  | none => .next s
  | some l =>
    if s.stopping r then .next s else
    match l.status with
    | .wait (.fence sc) => if s.fenceOk l sc s.nextId then .next (fenceTake sc s l) else .next s
    | .wait (.qfence m) => if s.qfenceOk l m then .next (qfenceTake (BitVec.ofNat 6 m) s l) else .next s
    | .wait .ifence => if s.ifenceOk l then .next (ifenceTake s l) else .next s
    | .wait (.scall n) => if s.fenceOk l .dev s.nextId then .next (scallTake (Fin.ofNat 32 n) s l) else .next s
    | _ => .next s

/-! ### Walks (R399 to R404, R408) -/

/-- The class that the checks of R401 and R406 give to the access that began a walk, at a leaf. -/
def State.walkCheck (s : State) (w : Walk) (e : TlbEnt) : Option Nat :=
  match s.leafTarget e w.va w.write w.user w.fetch with
  | .fault 0x06 => none
  | .fault c => some c
  | _ => none

/-- A core TLB keeps 2,048 entries and a die's shared TLB 32,768, the newest (R403). -/
def tlbFit (w : Walk) (l : List TlbEnt) : List TlbEnt :=
  let shared := keepFirst (fun (x : TlbEnt) => decide (x.core = none) && decide (x.die = w.die)) 32768 l
  match w.core with
  | some c => keepFirst (fun (x : TlbEnt) => decide (x.core = some c)) 2048 shared
  | none => shared

/-- Entries of one key are one entry, which stands for the accesses of each (R408). -/
def FaultEnt.join (f e : FaultEnt) : FaultEnt :=
  let all := !(e.byW || e.byU || e.byX)
  { f with lines := e.lines ++ f.lines, absent := f.absent || e.absent, byW := !all && (f.byW || e.byW), byU := !all && (f.byU || e.byU),
           byX := !all && (f.byX || e.byX) }

def FaultEnt.sameKey (f e : FaultEnt) : Bool :=
  decide (f.die = e.die) && decide (f.part = e.part) && (f.peer == e.peer) && decide (f.page = e.page) && decide (f.cls = e.cls)

/-- Entries of a die's fault table (R408). -/
def State.faultCount (s : State) (die : Nat) : Nat := (s.faultTab.filter fun f => decide (f.die = die)).length

/-- WALK: one of the die's 64 walkers ends its walk: the TLBs are filled, or the fault is gathered (R403, R408). A walk whose fault finds the
die's table full leaves its walker, and its accesses wait until an entry has gone; then it is made again. -/
def execWalk (id : Nat) (s : State) : Out :=
  match s.walks.find? fun w => decide (w.id = id) with
  | none => .next s
  | some w =>
    let room := decide (s.faultCount w.die < 512)
    if !((s.walks.filter fun x => decide (x.die = w.die) && (!x.parked || room)).take 64).contains w then .next s
    else
      let ended (s : State) : State := { s with walks := s.walks.filter fun x => decide (x.id ≠ id) }
      let fault (s : State) (cls : Nat) (absent : Bool) (refs : List TabRef) (leaf : Nat) : State :=
        let lines := refs.map Prod.fst
        let e : FaultEnt := { die := w.die, part := w.part, peer := w.peer, page := w.va / 0x10000, cls, absent, lines, on := [],
                              byW := w.write && !leaf.testBit 2, byU := w.user && !leaf.testBit 4, byX := w.fetch && !leaf.testBit 3 }
        if s.faultTab.any (FaultEnt.sameKey e) then ended { s with faultTab := upd (FaultEnt.sameKey e) (FaultEnt.join · e) s.faultTab }
        else if !room then { s with walks := upd (fun x => decide (x.id = id)) (fun x => { x with parked := true }) s.walks }
        else ended { s with faultTab := s.faultTab ++ [e] }
      match s.walkRoot w with
      | none => .next (fault s 0x07 false [] 0x1C)
      | some root =>
        match walkFrom s w w.part 4 root (s.time + 2 ^ 64) [] [] with
        | (s', .fault absent lines) => .next (fault s' 0x07 absent lines 0x1C)
        | (s', .leaf e read) =>
          match s'.walkCheck w e with
          | some c => .next (fault s' c false e.lines e.entry)
          | none =>
            .next (ended { s' with
              tlb := tlbFit w ((match w.core with | some _ => [{ e with core := w.core }] | none => []) ++ read ++ s'.tlb.filter fun x =>
                decide (s'.time < x.expiry)) })

/-- TLB_LEASE_EXPIRY: the n-th TLB entry, its lease run out, is gone. -/
def execTlbLeaseExpiry (n : Nat) (s : State) : Out :=
  match s.tlb[n]? with
  | some e => if e.expiry ≤ s.time then .next { s with tlb := s.tlb.eraseIdx n } else .next s
  | none => .next s

/-! ### Fetch and issue (R147, R314, R36) -/

/-- The code address of a line's pc (R147): code base + pc, modulo 2^57. (DESIGN CHOICE, assumption 69.) -/
def State.codeVa (s : State) (l : Line) : Nat :=
  match s.grid l.ref.grid with
  | some g => (fld (g.pkt.getD 5 0) 0 25 * 2 ^ 32 + (g.pkt.getD 4 0).toNat + l.pc.toNat) % 2 ^ 57
  | none => l.pc.toNat

/-- The cached instruction word at a code address: none where its two low bits are not zero (R145), or its word carries an uncorrectable
error (R411). -/
def State.cachedWord (s : State) (core part va : Nat) : Option Word :=
  if va % 4 ≠ 0 then none else
  match s.icache.find? fun e => decide (e.core = core) && decide (e.part = part) && decide (e.va = va / 128) with
  | none => none
  | some e => if meetsBad e.bad (va % 128) 4 then none else some (BitVec.ofNat 32 (leNat ((e.bytes.drop (va % 128)).take 4)))

/-- A line fetched into the core's instruction cache of 64 KiB, 512 lines: the line fetched first makes room (R147). (DEDUCED, assumption 11.) -/
def State.fillCode (s : State) (core part va : Nat) (bytes : List Byte) (bad : List Nat := []) : State :=
  { s with icache := keepFirst (fun e => decide (e.core = core)) 512 ({ core, part, va := va / 128, bytes, bad } ::
      s.icache.filter fun e => !(decide (e.core = core) && decide (e.part = part) && decide (e.va = va / 128))) }

/-- Waits that a step of an engine ends; in every other wait the line tries its instruction again. -/
def Wait.byEvent : Wait → Bool
  | .barStep | .barrier | .fault .. | .fence _ | .qfence _ | .ifence | .scall _ | .latch _ | .mma _ | .mloadb _ | .block _ | .fetch => true
  | _ => false

/-- Whether a line in this state needs its instruction word: it issues next, or tries its instruction again. -/
def Status.fetches : Status → Bool
  | .ready => true
  | .wait w => !w.byEvent || decide (w = .fetch)
  | _ => false

/-- A fault of a fetch, at tri, which is 0 before a new instruction (R314). -/
def fetchFault (s : State) (l : Line) (cls va : Nat) : State :=
  stopAt s l l.tri 0 { cls, addr := va }

/-- A line whose word is fetched again while it waits under WAITA keeps that wait, and with it what became of the granule (R277). -/
def Status.fetchedOr : Status → Status → Status
  | .wait (.full r g), _ => .wait (.full r g)
  | .wait .filled, _ => .wait .filled
  | _, d => d

/-- INSTRUCTION_FETCH: the line pops (R51), and its 128-byte line of code is read through the core TLB, or the line waits for a walk, or takes
the fetch fault (class 0x1F). (DEDUCED, assumption 11.) -/
def execInstructionFetch (r : LineRef) (s : State) : Out :=
  match s.line r with
  | none => .next s
  | some l =>
    if !l.status.fetches then .next s
    else
      let l := l.pops
      let va := s.codeVa l
      let base := va / 128 * 128
      if va % 4 ≠ 0 then .next (fetchFault s l 0x04 va) else
      match s.translate (some l.core) (coreDie l.core) l.part false va false l.user true with
      | .miss =>
        let w := s.startWalk (some l.core) (coreDie l.core) l.part false va false l.user true
        .next (w.2.setLine { l with status := l.status.fetchedOr (.wait .fetch) })
      | .fault _ => .next (fetchFault s l 0x1F va)
      | .hit (.dev ca) _ =>
        if s.badRead ca 4 then .next (fetchFault s l 0x14 va)
        else .next ((s.fillCode l.core l.part base (s.devLine (lineOf ca)) (s.badWords (lineOf ca))).setLine { l with status := l.status.fetchedOr .ready })
      | .hit (.host a) _ => .next ((s.fillCode l.core l.part base (readBytes s.hostMem (a / 128 * 128) 128)).setLine { l with status := l.status.fetchedOr .ready })
      | .hit (.spad ..) _ => .next (fetchFault s l 0x1F va)

/-- STARVATION (R36): a line that has been eligible for 1,024 cycles without being chosen is starved. -/
def execStarvation (r : LineRef) (s : State) : Out :=
  .next (s.updLine r fun l => if 1024 ≤ l.waited then { l with starved := true } else l)

end Sys2Proof.Machine
end

