-- ==== Sys2Proof/Machine/Copy.lean ====
section
/-!
DEFINITION. Steps of the copy queues (R161 to R163, R185, R186, R280).
-/
namespace Sys2Proof.Machine

/-- The head of a copy queue. -/
def State.copyHead (s : State) (core queue : Nat) : Option CopyOp :=
  s.copyQ.find? fun o => decide (o.core = core) && decide (o.queue = queue)
def State.setCopy (s : State) (o : CopyOp) : State := { s with copyQ := upd (fun x => decide (x.id = o.id)) (fun _ => o) s.copyQ }
/-- Whether an engine's issuing grid runs at level 0 (R406). -/
def State.engineUser (s : State) (r : LineRef) : Bool := match s.grid r.grid with | some g => !g.sup | none => true

/-- COPY_START: the head of a queue starts once every earlier store and atomic of its line is complete (R186). -/
def execCopyStart (core queue : Nat) (s : State) : Out :=
  match s.copyHead core queue with
  | some o => if o.state = .queued ∧ s.priorDone o.issuer o.id then .next (s.setCopy { o with state := .started }) else .next s
  | none => .next s

/-- What moving one element comes to. -/
inductive Moved where
  | ok (s : State) (o : CopyOp)
  | wait (s : State)
  | fault (cls addr : Nat)

/-- The source element of a copy (R162, R79). -/
def copyRead (s : State) (o : CopyOp) (c : CSet) (n : Nat) : Moved × Nat :=
  let size := 2 ^ descEsize o.src
  match descElem o.src n with
  | .ended | .pad => (.ok s o, 0)
  | .at_ a =>
    if descSpace o.src = 0 then
      let va := (a % (2 ^ 64 : Nat)).toNat
      let user := s.engineUser o.issuer
      if 2 ^ 57 ≤ va then (.fault 0x04 va, 0)
      else
        match s.translate (some o.core) (coreDie o.core) o.part false va false user with
        | .miss => (.wait (s.startWalk (some o.core) (coreDie o.core) o.part false va false user).2, 0)
        | .fault cls =>
          if descOobz o.src && decide (cls = 0x07) && s.absentPage (coreDie o.core) o.part false va then
            (.ok (s.dropFault (coreDie o.core) o.part false va) o, 0)
          else (.fault cls va, 0)
        | .hit (.dev ca) _ => if s.badRead ca size then (.fault 0x14 va, 0) else (.ok s o, readLe s.dev ca size)
        | .hit (.host h) _ => (.ok s o, readLe s.hostMem h size)
        | .hit (.spad ..) _ => (.fault 0x08 va, 0)
    else
      match s.spadElem c (descSpace o.src) a with
      | none => if descOobz o.src then (.ok s o, 0) else (.fault 0x06 (a % (2 ^ 64 : Nat)).toNat, 0)
      | some (m, off) =>
        let id := match o.held with | some run => run.id | none => s.nextId
        let waiter : LineRef := { o.issuer with line := 16 + o.queue }
        let granted := o.grant.bind fun x => if x.1.set = m.ref ∧ x.1.gran = off / 16 then some (granPart x.2 off size) else none
        if granted.isNone && s.enlisted waiter m.ref (off / 16) then (.wait s, 0)
        else if granted.isNone && s.bankBusy m off then (.wait s, 0)
        else if granted.isNone && decide (descTag o.src ≠ 0) && !s.granReady m (off / 16) id then
          (.wait (s.enlist waiter 0 m off (decide (descTag o.src = 1)) o.id 0 0), 0)
        else if m.badGran.contains (off / 16) then (.fault 0x14 (a % (2 ^ 64 : Nat)).toNat, 0)
        else
          let o := { o with grant := none }
          let v := granted.getD (m.read off size)
          if descTag o.src = 1 then
            (.ok { s.updSet m.ref (fun c => c.take (off / 16) id) with nextId := s.nextId + 1 }
              { o with held := some { set := m.ref, gran := off / 16, id } }, v)
          else (.ok s o, v)

/-- Writes one element into scratchpad windows, once no request stands before it in their banks (R150): every member is checked, then
every member is written in the same step (R157, R159). (DESIGN CHOICE, assumption 70.) -/
def copySpad (s : State) (o : CopyOp) (cells : List (Option (CSet × Nat))) (addr v : Nat) : Moved :=
  let size := 2 ^ descEsize o.dst
  if cells.any (·.isNone) then .fault 0x06 addr
  else
    if cells.any fun x => match x with | some (m, off) => s.bankBusy m off | none => false then .wait s
    else match cells.find? fun x => match x with | some (m, off) => m.isMark (off / 16) | none => false with
    | some (some (_, off)) => .fault 0x0A off
    | _ => .ok (cells.foldl (fun s x => match x with | some (m, off) => s.engineSpad m.ref off (bytesOf v size) | none => s) s) o

/-- Whether a copy's writes are staged: its set is held, or what it has staged before is not yet performed (R194). -/
def State.copyStages (s : State) (o : CopyOp) : Bool :=
  o.det && (s.heldByTicket (setOf o.issuer) || s.flight.any fun a => decide (a.issuer = .copy o.core o.queue o.issuer))

/-- A copy's write enters its set's staging buffer, or waits for room there (R194). -/
def State.stageCopy (s : State) (o : CopyOp) (va : Nat) (place : Place) (size v : Nat) (trans : List TabRef) : Moved :=
  if 4096 ≤ s.stagedOf (setOf o.issuer) then .wait s
  else .ok { s with
    flight := s.flight ++ [{
      id := s.nextId, issuer := .copy o.core o.queue o.issuer, part := o.part, grid := o.issuer.grid, set := o.issuer.set, core := o.core,
      kind := .store, phase := .sent, va, place, size, val := v, cmp := 0, dst := none, sx := false, acq := false, rel := none, staged := true,
      prov := false, ino := 0, pc := 0, word := 0, check := [], trans, failed := none }]
    nextId := s.nextId + 1 } o

/-- The destination element of a copy (R162, R192, R194, R405). -/
def copyWrite (s : State) (o : CopyOp) (c : CSet) (n v : Nat) : Moved :=
  let size := 2 ^ descEsize o.dst
  let d := copyWalk o.dst o.mmask
  match descElem d n with
  | .ended | .pad => .ok s o
  | .at_ a =>
    let va := (a % (2 ^ 64 : Nat)).toNat
    if descSpace d = 0 then
      let user := s.engineUser o.issuer
      if 2 ^ 57 ≤ va then .fault 0x04 va
      else
        match s.translate (some o.core) (coreDie o.core) o.part false va true user with
        | .miss => .wait (s.startWalk (some o.core) (coreDie o.core) o.part false va true user).2
        | .fault cls => .fault cls va
        | .hit (.spad ..) _ => .fault 0x08 va
        | .hit (.host h) t =>
          if s.copyStages o then s.stageCopy o va (.host h) size v t
          else .ok { s with hostMem := writeBytes s.hostMem h (bytesOf v size) } { o with lastG := max o.lastG s.time }
        | .hit (.dev ca) t =>
          let tag := match s.grid o.issuer.grid with | some g => fld (g.pkt.getD 1 0) 16 16 | none => 0
          if (s.part o.part).regionRefuses ca 2 tag (some o.rph) then .fault 0x09 va
          else if s.copyStages o then s.stageCopy o va (.dev ca) size v t
          else .ok (s.devWrite none ca (bytesOf v size)) { o with lastG := max o.lastG (s.gwct ca), late := o.late ++ s.tabRefs ca }
    else if descSpace d = 1 then copySpad s o [s.spadElem c 1 a] va v
    else if o.mmask = 0 then copySpad s o [s.spadElem c 2 a] va v
    else if a < 0 then .fault 0x06 va
    else copySpad s o ((copyMembers o.dst o.mmask).map fun m =>
      if a < 0x100000 then s.spadElem c 2 (a + (m * 0x100000 : Nat)) else none) va v

/-- Moves one element. -/
def copyOne (s : State) (o : CopyOp) (c : CSet) (n : Nat) : Moved :=
  match copyRead s o c n with
  | (.ok s o, v) => copyWrite s o c n v
  | (r, _) => r

/-- A copy keeps the granule that it holds only while its next element lies there (R80). -/
def copyHold (s : State) (c : CSet) (o : CopyOp) (next : Nat) : State × CopyOp :=
  let r := s.afterRead c { bound := true, write := false, slot := 0, desc := o.src, pos := next, held := o.held }
  (r.1, { o with held := r.2.held })

/-- Elements above a fault may or may not have been written (R163): each is, when a free bit says so and it meets no wait and
no fault. A `.take` source is not read ahead. (DESIGN CHOICE, assumption 28.) -/
def copyAhead (o : CopyOp) (c : CSet) (ctr : Nat) : List Nat → State → State
  | [], s => s
  | n :: ns, s =>
    copyAhead o c ctr ns (if Config.freeBit (ctr + n) && decide (descTag o.src ≠ 1) then
      (match copyOne s o c n with | .ok s' _ => s' | _ => s) else s)

/-- A copy stops at a fault (R163, R373). -/
def stopCopy (s : State) (o : CopyOp) (c : CSet) (n cls addr : Nat) : State :=
  let total := descTotal o.src
  let s := copyAhead o c s.freeCtr ((List.range total).filter fun m => decide (n < m)) { s with freeCtr := s.freeCtr + total }
  let w := s.engineRecord o.part (s.engineRec o.issuer (queueHandle o.core o.queue) o.queue cls addr n)
  ((w.1.dropFault (coreDie o.core) o.part false addr).setCopy { o with state := .stopped cls addr, n }).queueErr o.issuer o.queue w.2

/-- COPY_ELEMENT: the started copy at the head of a queue moves its next element. -/
def execCopyElement (core queue : Nat) (s : State) : Out :=
  match s.copyHead core queue with
  | none => .next s
  | some o =>
    match o.state, s.cset (setOf o.issuer) with
    | .started, some c =>
      match copyOne s o c o.n with
      | .wait s' => .next (s.keepWalks s')
      | .fault cls addr => .next (stopCopy s o c o.n cls addr)
      | .ok s' o' =>
        let h := copyHold s' c o' (o.n + 1)
        .next (h.1.setCopy { h.2 with n := o.n + 1, state := if o.n + 1 = descTotal o.src then .written o'.lastG else .started })
    | _, _ => .next s

/-- Whether requests stand before a copy's byte counts in its barriers' banks (R150, R191). -/
def State.countsWait (s : State) (o : CopyOp) : Bool :=
  o.ben && match s.cset (setOf o.issuer) with
    | some c => (s.copyBarSets c o.dst o.mmask).any fun m => match m with | some m => s.bankBusy m (o.bgr * 16) | none => false
    | none => false

/-- COPY_COMPLETE: every write has completed; the barriers receive their byte counts (R160, R188, R280). -/
def execCopyComplete (core queue : Nat) (s : State) : Out :=
  match s.copyHead core queue with
  | none => .next s
  | some o =>
    match o.state with
    | .written g =>
      if decide (s.time < g) || !s.tabDone o.late || s.countsWait o || s.flight.any (fun a => decide (a.issuer = .copy core queue o.issuer)) then .next s
      else
        let s := s.releaseHeld o.held
        let s := { s with copyQ := s.copyQ.filter fun x => decide (x.id ≠ o.id) }.gridG o.issuer.grid g
        match s.cset (setOf o.issuer) with
        | none => .next s.reap
        | some c =>
          let bytes : Int := -((descTotal o.dst * 2 ^ descEsize o.dst : Nat) : Int)
          let bars := if o.ben then (s.copyBarSets c o.dst o.mmask).filterMap id else []
          let s := bars.foldl (fun s m =>
            let r := s.engineCount m.ref o.bgr bytes
            match r.2 with
            | some cls => r.1.queueErr o.issuer o.queue { s.engineRec o.issuer (queueHandle o.core o.queue) o.queue cls (o.bgr * 16) 0 with uid := o.id }
            | none => r.1) s
          .next s.reap
    | _ => .next s

end Sys2Proof.Machine
end

