-- ==== Sys2Proof/Machine/Regs.lean ====
section
/-!
DEFINITION. The registers of a partition, of a hardware queue and of the package: how each reads and what a write does
(R8, R9, R366 to R371, R383, R386, R387, R402, R412, R413, R416, R419, R421, R422).
-/
namespace Sys2Proof.Machine

/-- A word with `len` bits from `lo` replaced. -/
def putBits (w : Word) (lo len v : Nat) : Word :=
  (w &&& ~~~(BitVec.ofNat 32 (2 ^ len - 1) <<< lo)) ||| (BitVec.ofNat 32 (v % 2 ^ len) <<< lo)

/-- Whether the host has a function for a partition: function 0, or a virtual function that NumVFs enables (R364). -/
def State.hasFunction (s : State) (part : Nat) : Bool := decide (part < 8) && decide (part ≤ s.pkg.numVfs)

/-- The registers of a function are within reach: the host link is up, and the partition is enabled (R364, R420). (DEDUCED, assumption 46.) -/
def State.linkUp (s : State) : Bool := decide (5 ≤ s.pkg.stage)
def State.functionUp (s : State) (part : Nat) : Bool := s.linkUp && s.hasFunction part && (s.part part).pen

/-! ### Pending bits and the records of network units and the host link (R370, R372) -/

/-- Whether the pending bit of a handle is set in memory. -/
def State.pendingBit (s : State) (part handle : Nat) : Bool :=
  let pa := (s.part part).fpbase + handle / 8
  s.mayStore part pa && (readByte s.dev (canon pa)).getLsbD (handle % 8)

/-- An error of a network unit or of the host link: a record, or one more in DROPS while the last is pending (R371, R372). -/
def State.unitRecord (s : State) (part : Nat) (r : Rec) : State :=
  match s.sysRecs.find? fun x => decide (x.part = part) && decide (x.record.handle = r.handle) with
  | some x =>
    let drops := (x.record.drops + 1) % 2 ^ 32
    let up (y : SysRec) : SysRec := { y with record := { y.record with drops := drops } }
    let s := { s with sysRecs := upd (fun y => decide (y.part = part) && decide (y.record.handle = r.handle)) up s.sysRecs }
    match x.stage with
    | .written .. => s.physStore part ((s.part part).frbase + 64 * r.handle + 60) (bytesOf drops 4)
    | _ => s
  | none =>
    if (s.part part).fren && s.pendingBit part r.handle then
      let pa := (s.part part).frbase + 64 * r.handle + 60
      if s.mayStore part pa then s.physStore part pa (bytesOf ((readLe s.dev (canon pa) 4 + 1) % 2 ^ 32) 4) else s
    else (s.engineRecord part r).1

/-- The handle of the host link (R365). -/
def hostHandle : Nat := 127 * 0x400 + 8

/-- The resident set of the doorbell, and the offset of its granule in the set's window (R366, R370). -/
def State.doorbellAt (s : State) (part : Nat) : Option (CSet × Nat) :=
  let p := s.part part
  if !bit p.fdset 31 then none
  else
    match s.sets.find? fun c => decide (c.part = part) && decide (c.handle = fld p.fdset 0 18) && (decide (c.phase = .resident) || decide (c.phase = .stopping)) with
    | none => none
    | some c => if fld p.fdoff 0 20 < c.win then some (c, fld p.fdoff 0 20) else none

/-- The doorbell (R370): an engine write of the whole granule, which overwrites it even when it is full; a barrier granule
refuses it (R159). -/
def State.doorbell (s : State) (part : Nat) : State :=
  match s.doorbellAt part with
  | none => s
  | some (c, off) =>
    if !c.isMark (off / 16) then s.engineSpad c.ref off (bytesOf (s.part part).fcount.toNat 4 ++ List.replicate 12 0) else s

/-- Steps 3 and 4 of R370 at a handle of a partition. -/
def State.setPending (s : State) (part handle : Nat) : State :=
  let pa := (s.part part).fpbase + handle / 8
  let old := if s.mayStore part pa then readByte s.dev (canon pa) else 0
  ((s.physStore part pa [old ||| (1#8 <<< (handle % 8))]).updPart part fun p => { p with fcount := p.fcount + 1 }).doorbell part

/-! ### FREN, KBIND, PMODE (R367, R368, R371) -/

/-- The fault-record table and the pending bitmap overlap. -/
def Partition.overlap (p : Partition) : Bool :=
  decide (p.frbase < p.fpbase + 0x8000) && decide (p.fpbase < p.frbase + 0x1000000)

/-- Writes the records that are held at one handle. -/
def State.writeHeldAt (s : State) (part handle : Nat) : State :=
  let s := (s.lines.filter fun l => decide (l.part = part) && decide (l.status = .trapped) && decide (l.recStage = .held) &&
      decide (l.handle = handle)).foldl (fun s l =>
    let w := s.putRecord part l.record
    w.1.updLine l.ref fun l => { l with record := w.2.1, recStage := w.2.2 }) s
  let mine (x : SysRec) : Bool := decide (x.part = part) && decide (x.stage = .held) && decide (x.record.handle = handle)
  (s.sysRecs.filter mine).foldl (fun s x =>
    let w := s.putRecord part x.record
    match takeFirst mine w.1.sysRecs with
    | some (_, rest) => { w.1 with sysRecs := rest ++ [{ part, record := w.2.1, stage := w.2.2 }] }
    | none => w.1) s

/-- Inserts into an ascending list without repeats. -/
def insertNat (n : Nat) : List Nat → List Nat
  | [] => [n]
  | m :: r => if n < m then n :: m :: r else if n = m then m :: r else m :: insertNat n r

/-- Every held record of a partition, in ascending handle order (R371). -/
def State.writeHeld (s : State) (part : Nat) : State :=
  let hs := ((s.lines.filter fun l => decide (l.part = part) && decide (l.recStage = .held)).map Line.handle) ++
    ((s.sysRecs.filter fun x => decide (x.part = part) && decide (x.stage = .held)).map fun x => x.record.handle)
  (hs.foldl (fun l h => insertNat h l) []).foldl (fun s h => s.writeHeldAt part h) s

/-- The handles whose records are written and whose pending bits are to come, in ascending order, become the partition's backlog. -/
def State.queueBacklog (s : State) (part : Nat) : State :=
  let written (st : RecStage) : Bool := match st with | .written .. => true | _ => false
  let hs := ((s.lines.filter fun l => decide (l.part = part) && decide (l.status = .trapped) && written l.recStage).map Line.handle) ++
    ((s.sysRecs.filter fun x => decide (x.part = part) && written x.stage).map fun x => x.record.handle)
  s.updPart part fun p => { p with backlog := hs.foldl (fun l h => insertNat h l) [] }

/-- Steps 3 and 4 of R370 for a record at a handle: the handle leaves the backlog, and when that is done, records held in the meantime
are written (R371). -/
def State.pendingDone (s : State) (part handle : Nat) : State :=
  let p := s.part part
  let s := (s.updPart part fun p => { p with backlog := p.backlog.filter fun h => decide (h ≠ handle) }).setPending part handle
  if p.backlog = [handle] then (s.writeHeld part).queueBacklog part else s

/-- PENDING_BIT_SET: the record's completion time has passed, and what a device-scope release of the line waits for has come (R175); the
pending bit, FCOUNT and the doorbell follow (R370), while FREN is 1, and for records that were held in ascending handle order (R371). The
doorbell's write waits for the requests before it in its bank (R150). -/
def execPendingBitSet (handle : Nat) (s : State) : Out :=
  let due (part : Nat) (st : RecStage) : Bool :=
    (match st with | .written g late => decide (g ≤ s.time) && s.tabDone late | _ => false) && (s.part part).fren &&
    ((s.part part).backlog.isEmpty || decide ((s.part part).backlog.head? = some handle)) &&
    (match s.doorbellAt part with | some (c, off) => !s.bankBusy c off | none => true)
  match s.lines.find? fun l => decide (l.status = .trapped) && decide (l.handle = handle) && due l.part l.recStage && s.fenceOk l .dev s.nextId with
  | some l => .next ((s.updLine l.ref fun l => { l with recStage := .done }).pendingDone l.part handle)
  | none =>
    match takeFirst (fun x : SysRec => decide (x.record.handle = handle) && due x.part x.stage) s.sysRecs with
    | some (x, rest) => .next ({ s with sysRecs := rest }.pendingDone x.part handle)
    | none => .next s

/-- A write of register 0x0010: FRBASE's low bits and FREN (R366, R371). -/
def State.frenSet (s : State) (part : Nat) (v : Word) : State :=
  let p := s.part part
  let frlo := if p.fren then p.frlo else putBits p.frlo 16 16 (fld v 16 16)
  let p' := { p with frlo := putBits frlo 0 1 0 }
  if !bit v 0 then s.updPart part fun _ => p'
  else if p.fren then s
  else if p'.overlap then s.updPart part fun _ => p'
  else ((s.updPart part fun _ => { p' with frlo := putBits frlo 0 1 1, backlog := [] }).writeHeld part).queueBacklog part

/-- A write of KBIND (R367): zero unbinds; a handle that is not valid for KPEER leaves it unchanged. -/
def Partition.kbind (p : Partition) (v : Word) : Partition :=
  let h := fld v 0 16
  if h ≠ 0 ∧ (p.keys.any fun k => decide (k.handle = h) && decide (k.pkg = p.kpeer / 2)) = false then p
  else if p.binds.any fun b => decide (b.peer = p.kpeer) then
    { p with binds := upd (fun b => decide (b.peer = p.kpeer)) (fun b =>
      if b.handle = h then b else { b with handle := h, olds := (b.olds.filter fun o => decide (o.1 ≠ h)) ++ [(b.handle, none)] }) p.binds }
  else if h = 0 then p
  else { p with binds := p.binds ++ [{ peer := p.kpeer, handle := h, sendHandle := 0, pktHandle := 0, olds := [] }] }

/-- KBIND as it reads. -/
def Partition.kbound (p : Partition) : Nat :=
  match p.binds.find? fun b => decide (b.peer = p.kpeer) with | some b => b.handle | none => 0

/-- A write of PMODE (R368): each owned port whose bit changes begins its switch; a port that is switching ignores it. -/
def State.pmodeSet (s : State) (part : Nat) (v : Word) : State :=
  s.updFab fun f => { f with ports := Vector.ofFn fun n : Fin 16 =>
    let q := f.ports.get n
    if (s.part part).pport.testBit n && !q.switching && (bit v n != q.asked) then { q with asked := bit v n, switching := true } else q }

def execFrenWrite (part : Nat) (v : Word) (s : State) : Out := .next (if s.functionUp part then s.frenSet part v else s)
def execKbindWrite (part : Nat) (v : Word) (s : State) : Out :=
  .next (if s.functionUp part then s.updPart part fun p => p.kbind v else s)
def execPmodeWrite (part : Nat) (v : Word) (s : State) : Out := .next (if s.functionUp part then s.pmodeSet part v else s)

/-! ### The privileged registers (R366) -/

/-- A mask of the ports for which a test holds. -/
def portMask (f : Nat → Bool) : Nat := ((List.range 16).filter f).foldl (fun m n => m + 2 ^ n) 0

/-- The round length of a figure table (R339). -/
def Figure.round (f : Figure) : Nat := (f.slots.map Slot.len).foldl (· + ·) 0

/-- FTHLD: the hold point of the committed table has come. It reads 0 once the table is in force, while allowances and SQSTAT's HELD stay held to
the table's first usable tick (R345, R366; the run before R433). (DEDUCED, assumption 62.) -/
def Partition.fthld (p : Partition) (now : Nat) : Bool :=
  p.held && (match p.commit with | some c => decide (c.epoch ≤ now + c.hold) | none => false)

/-- A privileged register as it reads, `none` for a number that R366 does not assign. -/
def State.privRead (s : State) (part n : Nat) : Option Word :=
  let p := s.part part
  let w (v : Nat) : Option Word := some (BitVec.ofNat 32 v)
  if n = 0x0000 then w part
  else if n = 0x0010 then some p.frlo
  else if n = 0x0011 then some p.frhi
  else if n = 0x0012 then some p.fplo
  else if n = 0x0013 then some p.fphi
  else if n = 0x0014 then some p.fdset
  else if n = 0x0015 then some p.fdoff
  else if n = 0x0016 then some p.fcount
  else if n = 0x0020 then w p.lease
  else if n = 0x0021 then w p.holdt
  else if n = 0x0022 then w p.sbuf
  else if n = 0x0023 then w p.rbuf
  else if n = 0x0024 then w p.clsw
  else if n = 0x0030 then w s.time
  else if n = 0x0031 then w (s.time / 2 ^ 32)
  else if n = 0x0040 then
    w ((match p.figure with | some f => f.slots.length - 1 + 0x100 | none => 0) + (if p.commit.isSome then 0x200 else 0) +
      (if p.fthld s.time then 0x400 else 0))
  else if n = 0x0041 then w (match p.figure with | some f => f.epoch | none => 0)
  else if n = 0x0042 then w (match p.figure with | some f => f.epoch / 2 ^ 32 | none => 0)
  else if n = 0x0043 then w (match p.figure with | some f => f.round | none => 0)
  else if n = 0x0050 then w (portMask fun i => p.pport.testBit i && (s.fab.ports.getD i FPort.reset).asked)
  else if n = 0x0051 then w p.pport
  else if n = 0x0060 then w p.kpeer
  else if n = 0x0061 then w p.kbound
  else if 0x0080 ≤ n ∧ n ≤ 0x0083 then some (p.cmda.getD (n - 0x0080) 0)
  else if n = 0x0084 then w (if p.cmdBusy then 1 else p.cmdop)
  else if n = 0x0085 then some p.cmdres
  else if 0x0100 ≤ n ∧ n ≤ 0x017F then some (tget 0 p.route (n - 0x0100))
  else if 0x2000 ≤ n ∧ n ≤ 0x3FFF then some (tget 0 p.rlypkg (n - 0x2000))
  else none

/-- A field that keeps its value when the written one lies outside its range (R9). -/
def ranged (lo hi old v : Nat) : Nat := if lo ≤ v ∧ v ≤ hi then v else old

/-- The minors that the command registers run (R363). -/
def cmdMinor (n : Nat) : Bool := decide (n = 2) || decide (n = 3) || decide (n = 4) || decide (n = 9) || decide (n = 10)

/-- A write of CMDOP (R363); while a command runs it is ignored. A minor that no command has stays in the register, as a command's does: R363 lets
it set CMDRES and do nothing. (DESIGN CHOICE, assumption 92.) -/
def Partition.command (p : Partition) (v : Nat) : Partition :=
  if p.cmdBusy then p
  else if cmdMinor v then { p with cmdop := v, cmdBusy := true }
  else { p with cmdop := v, cmdres := 0xFFFFFFFF }

/-- The fields of a partition that a write of a privileged register sets, apart from 0x0010 and PMODE; read-only fields
ignore it (R8). FDSET keeps its 18 bits whatever handle they make: R366 states no range. (DESIGN CHOICE, assumption 92.) -/
def Partition.privSet (p : Partition) (n : Nat) (v : Word) : Partition :=
  if n = 0x0011 then (if p.fren then p else { p with frhi := v &&& 0x1FFFFFF })
  else if n = 0x0012 then (if p.fren then p else { p with fplo := v &&& 0xFFFF0000 })
  else if n = 0x0013 then (if p.fren then p else { p with fphi := v &&& 0x1FFFFFF })
  else if n = 0x0014 then { p with fdset := v &&& 0x8003FFFF }
  else if n = 0x0015 then (if fld v 0 4 = 0 then { p with fdoff := v &&& 0xFFFFF } else p)
  else if n = 0x0020 then { p with lease := ranged 256 16384 p.lease (fld v 0 15) }
  else if n = 0x0021 then { p with holdt := ranged 1000 1000000 p.holdt (fld v 0 20) }
  else if n = 0x0022 then { p with sbuf := ranged 1 16 p.sbuf (fld v 0 5) }
  else if n = 0x0023 then { p with rbuf := ranged 0 256 p.rbuf (fld v 0 9) }
  else if n = 0x0024 then
    let nib (i : Nat) : Nat := (if fld v i 4 = 0 then bitsAt p.clsw i 4 else fld v i 4) * 2 ^ i
    { p with clsw := nib 0 + nib 4 + nib 8 }
  else if n = 0x0060 then { p with kpeer := fld v 0 13 }
  else if n = 0x0061 then p.kbind v
  else if 0x0080 ≤ n ∧ n ≤ 0x0083 then { p with cmda := p.cmda.setIfInBounds (n - 0x0080) v }
  else if n = 0x0084 then p.command (fld v 0 4)
  else if 0x0100 ≤ n ∧ n ≤ 0x017F then { p with route := tset 0 p.route (n - 0x0100) v }
  else if 0x2000 ≤ n ∧ n ≤ 0x3FFF then { p with rlypkg := tset 0 p.rlypkg (n - 0x2000) (v &&& 0x80000FFF) }
  else p

/-- A write of a privileged register, `none` for a number that R366 does not assign. -/
def State.privWrite (s : State) (part n : Nat) (v : Word) : Option State :=
  match s.privRead part n with
  | none => none
  | some _ =>
    if n = 0x0010 then some (s.frenSet part v)
    else if n = 0x0050 then some (s.pmodeSet part v)
    else some (s.updPart part fun p => p.privSet n v)

/-! ### Queue registers (R386, R397) -/

def QueueRegs.qsz (q : QueueRegs) : Nat := fld q.ctl 0 4
def QueueRegs.qen (q : QueueRegs) : Bool := bit q.ctl 4
def QueueRegs.sup (q : QueueRegs) : Bool := bit q.ctl 5
def QueueRegs.qloc (q : QueueRegs) : Bool := bit q.ctl 6
def QueueRegs.pmax (q : QueueRegs) : Nat := fld q.ctl 7 3
def QueueRegs.qpart (q : QueueRegs) : Nat := fld q.ctl 10 3
def QueueRegs.err (q : QueueRegs) : Bool := bit q.ctl 16
/-- The queue stops with a code (R397), which replaces that of an earlier stop. (DESIGN CHOICE, assumption 107.) -/
def QueueRegs.stop (q : QueueRegs) (code : Nat) : QueueRegs := { q with ctl := putBits (putBits q.ctl 16 1 1) 20 4 code }

/-- A TAIL write: beyond the ring it leaves TAIL and stops the queue with code 8; the posted writes that the link delivered
before it bind the queue (R180, R386). -/
def QueueRegs.tailSet (q : QueueRegs) (v : Word) (postedG : Nat) (postedT : List TabRef) : QueueRegs :=
  if 2 ^ q.qsz < (v - q.head).toNat then q.stop 8 else { q with tail := v, tailG := postedG, tailT := postedT }

/-- A write of one ERR: the queue goes on with the next packet (R397). (DEDUCED, assumption 37.) -/
def QueueRegs.errClear (q : QueueRegs) : QueueRegs := { q with ctl := putBits (putBits q.ctl 16 1 0) 20 4 0 }

/-- A write of a queue register by a function: `pf` for the physical function, which alone writes QPART (R386). -/
def QueueRegs.set (q : QueueRegs) (pf : Bool) (off : Nat) (v : Word) (postedG : Nat) (postedT : List TabRef) : QueueRegs :=
  if off = 0x00 then (if q.qen then q else { q with qblo := v &&& 0xFFFFF000 })
  else if off = 0x04 then (if q.qen then q else { q with qbhi := v &&& 0x1FFFFFF })
  else if off = 0x08 then
    let c := q.ctl
    let c := if q.qen then c else
      putBits (putBits (putBits c 5 1 (fld v 5 1)) 6 1 (fld v 6 1)) 0 4 (if 4 ≤ fld v 0 4 then fld v 0 4 else fld c 0 4)
    let c := putBits (putBits c 4 1 (fld v 4 1)) 7 3 (fld v 7 3)
    let c := if pf then putBits c 10 3 (fld v 10 3) else c
    if bit v 16 then ({ q with ctl := c } : QueueRegs).errClear else { q with ctl := c }
  else if off = 0x10 then q.tailSet v postedG postedT
  else q

/-- TAIL_WRITE by the function of the partition that owns the queue. -/
def execTailWrite (q : Nat) (v : Word) (s : State) : Out :=
  let r := s.queue q
  .next (if q < 1024 ∧ s.functionUp r.qpart then s.setQueue q (r.tailSet v s.postedG s.postedT) else s)

def execErrClear (q : Nat) (s : State) : Out := .next (if q < 1024 ∧ s.functionUp (s.queue q).qpart then s.setQueue q (s.queue q).errClear else s)

/-- Whether the grid of a queue's last packet still has sets to place (BUSY, R386, R390). -/
def Grid.unplaced (g : Grid) : Bool :=
  match g.state with | .waiting | .dispatchable => decide (g.next < g.count) | _ => false

/-- The word at 0x14 of a queue: DEPW, TIMEW, BUSY, FULLG. -/
def State.queueStatus (s : State) (n : Nat) : Word :=
  let q := s.queue n
  let pkt := match q.sigPkt with
    | some p => some (p, q.sigDep)
    | none => ((s.grids.filter fun (g : Grid) => decide (g.queue = n) && decide (g.state = GridState.waiting)).map fun (g : Grid) => (g.pkt, g.depMet)).getLast?
  let start (p : Vector Word 32) : Nat := (p.getD 10 0).toNat + (p.getD 11 0).toNat * 2 ^ 32
  let depw := match pkt with | some (p, d) => decide (fld (p.getD 1 0) 13 2 ≠ 0) && !d | none => false
  let timew := match pkt with | some (p, _) => decide (s.time < start p) | none => false
  let busy := s.grids.any fun g => decide (g.queue = n) && g.unplaced
  let full := q.qen && !q.err && decide (q.head ≠ q.tail) &&
    decide (256 ≤ (s.grids.filter fun (g : Grid) => decide (g.state ≠ GridState.refused)).length)
  BitVec.ofNat 32 ((if depw then 1 else 0) + (if timew then 2 else 0) + (if busy then 4 else 0) + (if full then 8 else 0))

def State.queueRead (s : State) (n off : Nat) : Word :=
  let q := s.queue n
  if off = 0x00 then q.qblo else if off = 0x04 then q.qbhi else if off = 0x08 then q.ctl else if off = 0x0C then q.head
  else if off = 0x10 then q.tail else if off = 0x14 then s.queueStatus n else 0

/-! ### Partitions (R412, R413) -/

/-- Cores, ports and memory of two partitions overlap. -/
def Partition.clash (a b : Partition) : Bool :=
  ((List.range 5).any fun i => decide (a.cores.getD i 0 &&& b.cores.getD i 0 ≠ 0)) || decide (a.pport &&& b.pport ≠ 0) ||
  (a.ranges.any fun v => bit v 31 && decide (fld v 16 9 ≠ 0) && b.ranges.any fun w => bit w 31 && decide (fld w 16 9 ≠ 0) &&
    decide (fld v 0 9 < fld w 0 9 + fld w 16 9) && decide (fld w 0 9 < fld v 0 9 + fld v 16 9))

/-- A partition's resources overlap those of another enabled partition. -/
def State.clashes (s : State) (part : Nat) (p : Partition) : Bool :=
  (List.range 8).any fun q => decide (q ≠ part) && (s.part q).pen && p.clash (s.part q)

/-- A write that R413 ignores or refuses: the block is unchanged but for PCERR. -/
def Partition.refused (p : Partition) : Partition := { p with pcerr := true }

/-- A partition as it stands after PEN rises (R413). (DEDUCED, assumption 38.) -/
def Partition.enable (p : Partition) : Partition :=
  { p with pen := true, regions := [], figure := none, commit := none, held := false, dark := false, pendFig := [],
           keys := [], binds := [], mrs := Vector.replicate 4 mrZero, keyGen := p.keyGen + 1, seqs := [] }

/-- A memory range of R412 that fits the device. -/
def rangeOk (w : Word) : Bool := decide (fld w 0 9 + fld w 16 9 ≤ 384)

/-- A write of another field of a partition's block. -/
def State.blockSet (s : State) (part off : Nat) (v : Word) : State :=
  let p := s.part part
  let new : Option Partition :=
    if 4 ≤ off ∧ off ≤ 0x14 then some { p with cores := p.cores.setIfInBounds (off / 4 - 1) v }
    else if off = 0x18 then some { p with pport := fld v 0 16 }
    else if 0x20 ≤ off ∧ off ≤ 0x2C then some { p with ranges := p.ranges.setIfInBounds (off / 4 - 8) (v &&& 0x81FF01FF) }
    else none
  match new with
  | none => s
  | some q =>
    s.updPart part fun _ => if p.pen then p.refused else if !(q.ranges.all rangeOk) then p.refused else q

def State.blockRead (s : State) (part off : Nat) : Word :=
  let p := s.part part
  if off = 0 then BitVec.ofNat 32 ((if p.pen then 1 else 0) + (if p.pcerr then 2 else 0))
  else if 4 ≤ off ∧ off ≤ 0x14 then p.cores.getD (off / 4 - 1) 0
  else if off = 0x18 then BitVec.ofNat 32 p.pport
  else if 0x20 ≤ off ∧ off ≤ 0x2C then p.ranges.getD (off / 4 - 8) 0
  else 0

end Sys2Proof.Machine
end

