-- ==== Sys2Proof/Machine/Image.lean ====
section
/-!
DEFINITION. The line image of R378 word by word, as CXRD reads it and CXWR writes it (R375); set images and the area that
holds them (R378, R379, R387).
-/
namespace Sys2Proof.Machine

/-- The line status word (R378). -/
def Line.statusWord (l : Line) : Word :=
  let st := match l.status with | .ready => 0 | .wait _ => 1 | .trapped => 2 | .ended => 0
  BitVec.ofNat 32 (l.tri % 64 + l.depth % 32 * 64 + (if l.rp then 0x800 else 0) + (if l.pl then 0x1000 else 0) + st * 0x2000 +
    (if l.cv then 0x8000 else 0) + (if l.bv then 0x10000 else 0))

/-- A half of a 64-bit word at a byte offset. -/
def halfOf (v : Nat) (off : Nat) : Word := BitVec.ofNat 32 (if off % 8 = 0 then v else v / 2 ^ 32)
/-- A 64-bit word with a half replaced. -/
def withHalf (old : Nat) (off : Nat) (v : Word) : Nat :=
  if off % 8 = 0 then old / 2 ^ 32 * 2 ^ 32 + v.toNat else v.toNat * 2 ^ 32 + old % 2 ^ 32

/-- The state word of a port; `hall` is the set index of the hall's member 0 (R378). -/
def Port.stateWord (p : Port) (hall : Nat) : Word :=
  BitVec.ofNat 32 (p.slot % 32 + (if p.bound then 0x20 else 0) + (if p.write then 0x40 else 0) +
    match p.held with
    | some run => 0x80 + (if p.space = 2 then (run.set.set - hall) % 8 * 0x100 else 0) + run.gran * 0x10000
    | none => 0)

/-- The length of a line image. -/
def Line.imageEnd (l : Line) : Nat := 0x1000 + 4 * l.width * l.xregs

/-- The word at an offset of the line image, `none` where the image assigns none. -/
def Line.imageWord (l : Line) (hall off : Nat) : Option Word :=
  if off % 4 ≠ 0 ∨ l.imageEnd ≤ off then none
  else if off = 0x000 then some l.pc
  else if off = 0x004 then some l.lmode
  else if off = 0x008 then some l.kstatWord
  else if off = 0x00C then some l.statusWord
  else if off < 0x018 then some (halfOf l.active.toNat off)
  else if off = 0x018 then some l.crv
  else if off = 0x01C then some l.ra
  else if off = 0x020 then some l.d0
  else if off = 0x024 then some l.d1
  else if off < 0x030 then some (halfOf l.hd off)
  else if off < 0x038 then some (halfOf l.hx off)
  else if off = 0x038 then some l.mmaCount
  else if off < 0x040 then none
  else if off < 0x080 then some (l.kr ((off - 0x040) / 4))
  else if off < 0x100 then some (halfOf (l.end_ ((off - 0x080) / 8)).toNat off)
  else if off < 0x200 then
    let e := l.stack.getD ((off - 0x100) / 16) StackEntry.zero
    some (if off % 16 = 0 then e.pc else if off % 16 = 4 then e.rcv else halfOf e.mask.toNat off)
  else if off < 0x220 then some (halfOf (l.seeds.getD ((off - 0x200) / 8) 0).toNat off)
  else if off < 0x240 then some (halfOf (l.carry.getD ((off - 0x220) / 8) 0).toNat off)
  else if off < 0x2C4 then some (l.block.getD ((off - 0x240) / 4) 0)
  else if off < 0x300 then none
  else if off < 0x500 then
    let t := (off - 0x300) / 8
    if t < l.width then some (if off % 8 = 0 then l.fpst t else ((l.thread t).p ||| 1).setWidth 32) else none
  else if off < 0x900 then
    let p := l.port ((off - 0x500) / 64)
    let o := off % 64
    if o < 0x28 then some (p.desc.getD (o / 4) 0)
    else if o < 0x30 then some (halfOf p.pos off)
    else if o = 0x30 then some (p.stateWord hall)
    else none
  else if off < 0x1000 then none
  else some (l.x ((off - 0x1000) / 4 / l.xregs) ((off - 0x1000) / 4 % l.xregs))

/-- CXWR's write of lmode: a value that R62 does not assign leaves its field (R9, R375); POL is read-only. -/
def lmodeWrite (old v : Word) : Word :=
  let w := (old &&& 0x300000) ||| (v &&& 0xF00F)
  let w := putBits w 4 5 (if fld v 4 5 ≤ 0x11 then fld v 4 5 else fld old 4 5)
  putBits w 9 3 (if fld v 9 3 ≤ 5 then fld v 9 3 else fld old 9 3)

/-- CXWR's write of the line status word: PL, STATE, CV and BV keep their values. -/
def Line.statusWrite (l : Line) (v : Word) : Line :=
  { l with tri := fld v 0 6, depth := if fld v 6 5 ≤ 16 then fld v 6 5 else l.depth, rp := bit v 11 }

/-- CXWR's write of a port state word, for a line of a set in the hall whose first set is `hall`; `id` numbers the run of a
granule that the word names anew. -/
def Port.stateWrite (p : Port) (r : SetRef) (hall id : Nat) (v : Word) : Port :=
  let set : SetRef := if p.space = 2 then { grid := r.grid, set := hall + fld v 8 3 } else r
  let held : Option Run :=
    if bit v 7 then
      match p.held with
      | some run => if run.set = set ∧ run.gran = fld v 16 16 then some run else some { set, gran := fld v 16 16, id }
      | none => some { set, gran := fld v 16 16, id }
    else none
  { p with slot := fld v 0 5, bound := bit v 5, write := bit v 6, held }

/-- The line with one word of its image written; `none` where CXWR faults. (DEDUCED, assumption 34.) -/
def Line.imageWrite (l : Line) (hall id off : Nat) (v : Word) : Option Line :=
  match l.imageWord hall off with
  | none => none
  | some _ =>
    if off = 0x000 then some { l with pc := v }
    else if off = 0x004 then some { l with lmode := lmodeWrite l.lmode v }
    else if off = 0x008 then some { l with kstat := kstatWrite l.kstat v }
    else if off = 0x00C then some (l.statusWrite v)
    else if off < 0x018 then some { l with active := BitVec.ofNat 64 (withHalf l.active.toNat off v) }
    else if off = 0x018 then some { l with crv := v }
    else if off = 0x01C then some { l with ra := v }
    else if off = 0x020 then (if stairIllegal v l.d1 then none else some { l with d0 := v })
    else if off = 0x024 then (if stairIllegal l.d0 v then none else some { l with d1 := v })
    else if off < 0x030 then some { l with hd := withHalf l.hd off v }
    else if off < 0x038 then some { l with hx := withHalf l.hx off v }
    else if off = 0x038 then some { l with mmaCount := v }
    else if off < 0x080 then some (l.setK ((off - 0x040) / 4) v)
    else if off < 0x100 then
      let n := (off - 0x080) / 8
      some (l.setEnd n (BitVec.ofNat 64 (withHalf (l.end_ n).toNat off v)))
    else if off < 0x200 then
      let i := (off - 0x100) / 16
      let e := l.stack.getD i StackEntry.zero
      let e' : StackEntry := if off % 16 = 0 then { e with pc := v } else if off % 16 = 4 then { e with rcv := v }
        else { e with mask := BitVec.ofNat 64 (withHalf e.mask.toNat off v) }
      some { l with stack := l.stack.setIfInBounds i e' }
    else if off < 0x220 then
      let i := (off - 0x200) / 8
      some { l with seeds := l.seeds.setIfInBounds i (BitVec.ofNat 64 (withHalf (l.seeds.getD i 0).toNat off v)) }
    else if off < 0x240 then
      let i := (off - 0x220) / 8
      some { l with carry := l.carry.setIfInBounds i (BitVec.ofNat 64 (withHalf (l.carry.getD i 0).toNat off v)) }
    else if off < 0x2C4 then some { l with block := l.block.setIfInBounds ((off - 0x240) / 4) v }
    else if off < 0x500 then
      let t := (off - 0x300) / 8
      some (if off % 8 = 0 then l.setFpst t (fpstWrite (l.fpst t) v) else l.updThread t fun u => { u with p := v.setWidth 8 ||| 1 })
    else if off < 0x900 then
      let n := (off - 0x500) / 64
      let o := off % 64
      some (l.updPort n fun p =>
        if o < 0x28 then { p with desc := p.desc.setIfInBounds (o / 4) v }
        else if o < 0x30 then { p with pos := withHalf p.pos off v }
        else p.stateWrite (setOf l.ref) hall id v)
    else some (l.setX ((off - 0x1000) / 4 / l.xregs) ((off - 0x1000) / 4 % l.xregs) v)

/-! ### Set images (R378, R387) -/

/-- The bytes of a line image. -/
def Line.imageBytes (l : Line) (hall : Nat) : List Byte :=
  let n := (l.imageEnd + 0xFFF) / 0x1000 * 0x1000
  ((List.range (n / 4)).map fun i => bytesOf ((l.imageWord hall (4 * i)).getD 0).toNat 4).flatten

/-- The length of a line's image in a set image. -/
def Line.imageSize (l : Line) : Nat := (l.imageEnd + 0xFFF) / 0x1000 * 0x1000

/-- The length of a set's image with `k` MDRAINs that hold tile values. -/
def State.imageSize (s : State) (c : CSet) (k : Nat) : Nat :=
  0x80000 + c.win + ((s.linesOf c.ref).map Line.imageSize).foldl (· + ·) 0 + k * 0x20000

/-- The MDRAINs of a set in its core's drain queue. -/
def State.setDrains (s : State) (r : SetRef) : List DrainOp :=
  s.drainQ.filter fun o => decide (setOf o.issuer = r) && (match o.kind with | .mdrain .. => true | _ => false)

/-- The parts of a partition's image area that hold images: address and length. -/
def State.imageUse (s : State) (part : Nat) : List (Nat × Nat) :=
  ((s.grids.filter fun g => decide (g.part = part)).map fun g => g.images.map fun im => (im.addr, im.size)).flatten

/-- The lowest place of the area where `n` bytes fit beside what stands there (R379). -/
def placeImage (base size : Nat) (used : List (Nat × Nat)) (n : Nat) : Option Nat :=
  ((base :: used.map fun u => u.1 + u.2).filter fun a => decide (base ≤ a) && decide (a + n ≤ base + size) &&
    used.all fun u => decide (u.1 + u.2 ≤ a) || decide (a + n ≤ u.1)).foldl (fun m a =>
      match m with | none => some a | some b => some (min a b)) none

/-- Places for a list of images. -/
def placeImages (base size : Nat) : List (Nat × Nat) → List Nat → Option (List (Nat × Nat))
  | used, [] => some used
  | used, n :: ns =>
    match placeImage base size used n with
    | none => none
    | some a => placeImages base size ((a, n) :: used) ns

/-- A partition's image area (R387), base and length: without room where it does not lie in device memory that the partition owns, since
pre-emption reaches no other memory (R414). (DESIGN CHOICE, assumption 95.) -/
def State.imageArea (s : State) (part : Nat) : Nat × Nat :=
  let p := s.part part
  let base := p.cxbase * 0x10000
  let size := p.cxsize * 0x10000
  let marks := [base, base + size - 1] ++ (List.range (size / 2 ^ 27)).map fun i => base + i * 2 ^ 27
  if size ≠ 0 ∧ marks.all (fun a => decide (a < 0x6000000000) && s.mayStore part a) then (base, size) else (base, 0)

/-- The hall of a set, resident sets in index order. -/
def State.hallOf (s : State) (c : CSet) : List CSet :=
  (List.range c.hsize).filterMap fun m => s.cset { grid := c.ref.grid, set := c.hall + m }

/-- Whether the image area has room for every set of a hall, beside the images that it holds and those that sets being
pre-empted will take (R379). Every queued MDRAIN counts with tile values, whether or not it will have them. (DESIGN CHOICE, assumption 106.) -/
def State.imageRoom (s : State) (c : CSet) : Bool :=
  let area := s.imageArea c.part
  let stopping := s.sets.filter fun d => decide (d.part = c.part) && decide (d.phase = .stopping)
  decide (area.2 ≠ 0) &&
    (placeImages area.1 area.2 (s.imageUse c.part)
      ((stopping ++ s.hallOf c).map fun d => s.imageSize d (s.setDrains d.ref).length)).isSome

/-- SPREEMPT's request (R379): the hall is to stop, every member (R45), one whose lines have all ended too. -/
def State.preempt (s : State) (c : CSet) : State :=
  { s with sets := s.sets.map fun d => if d.ref.grid = c.ref.grid ∧ d.hall = c.hall then { d with phase := .stopping } else d }

end Sys2Proof.Machine
end

