-- ==== Sys2Proof/Machine/Priv.lean ====
section
/-!
DEFINITION. Major 0x3E (R362, R369): the privileged instructions, and the operations that the host's command registers share
with them (R363, R375 to R384).
-/
namespace Sys2Proof

/-- Instructions that issue once for the line, whose fault or skip covers the instruction whole (R25, R376). -/
def Instr.lineUniform : Instr → Bool
  | .luik .. | .addki .. | .mode .. | .kadd .. | .ksub .. | .kmul .. | .kand .. | .kor .. | .kxor .. | .kshl .. | .kshr ..
  | .ksra .. | .kmin .. | .kmax .. | .movkx .. | .rdks .. | .wrks .. | .rdlm .. | .rdtime .. | .xseed .. | .fdrain ..
  | .sqstat .. | .fence .. | .qfence .. | .ifence | .waita .. | .patset .. | .sbind .. | .srel .. | .spos .. | .sskip ..
  | .copy .. | .setstair .. | .qdset .. | .mswap | .mzero .. | .mstat .. | .mloadb .. | .mma .. | .mmaPort .. | .mdrain ..
  | .mmas .. | .jmp .. | .call .. | .rcv .. | .br .. | .jr .. | .callr .. | .yield | .grow .. | .nop | .scall .. | .prd ..
  | .pwr .. | .cxrd .. | .cxwr .. | .lresume .. | .ftset .. | .ftcommit .. | .rgset .. | .rgphase .. | .spreempt .. | .qctl .. => true
  | _ => false

end Sys2Proof

namespace Sys2Proof.Machine

/-! ### Handles (R362, R365) -/

/-- Whether a partition owns a core of the package, counted over both dies (R412). -/
def Partition.ownsCore (p : Partition) (core : Nat) : Bool := bit (p.cores.getD (core / 32) 0) (core % 32)

/-- The core that a handle names, when the handle is well formed and the core is the partition's. (DEDUCED, assumption 35.) -/
def State.handleCore (s : State) (part : Nat) (h : Word) : Option Nat :=
  let c := fld h 17 1 * 80 + fld h 10 7
  if fld h 18 14 = 0 ∧ fld h 10 7 < 80 ∧ (s.part part).ownsCore c then some c else none

/-- Whether a line's set has become resident. -/
def State.isIn (s : State) (l : Line) : Bool :=
  match (s.cset (setOf l.ref)).map CSet.phase with | some (.placed _) => false | some (.restoring _) => false | _ => true

/-- The resident line that a handle names. -/
def State.lineAt (s : State) (part : Nat) (h : Word) : Option Line :=
  s.lines.find? fun l => decide (l.handle = h.toNat) && decide (l.part = part) && decide (l.status ≠ .ended) && s.isIn l

/-- The resident set that a set handle names; one that is still to become resident (R380, R392) is none. -/
def State.setAt (s : State) (part : Nat) (h : Word) : Option CSet :=
  s.sets.find? fun c => decide (c.handle = h.toNat) && decide (c.part = part) && (decide (c.phase = .resident) || decide (c.phase = .stopping))

/-! ### Removing queue operations (R377, R395) -/

/-- A queue's operations without those that a test names; a granule that a copy holds is released, the tile read of an MDRAIN
goes with it. (DEDUCED, assumption 29.) -/
def State.dropOps (s : State) (copy : CopyOp → Bool) (drain : DrainOp → Bool) : State :=
  let s := (s.copyQ.filter copy).foldl (fun s o => s.releaseHeld o.held) s
  let s := (s.drainQ.filter drain).foldl (fun s o => s.leaveTile { o.issuer with line := 20 }) s
  let gone := (s.drainQ.filter drain).map DrainOp.id
  { s with
    copyQ := s.copyQ.filter fun o => !copy o
    drainQ := s.drainQ.filter fun o => !drain o
    matQ := s.matQ.filter fun o => match o.kind with | .mread n => !gone.contains n | _ => true }

/-- Cancels queue operations (QCTL op 2): each queues a record of class 0x22 for its issuing line, with its index
in the queue in QENT (R372). -/
def State.cancelOps (s : State) (copy : CopyOp → Bool) (drain : DrainOp → Bool) : State :=
  let cs := (s.copyQ.filter copy).map fun o =>
    (o, (s.copyQ.takeWhile fun x => decide (x.id ≠ o.id)).countP fun x => decide (x.core = o.core) && decide (x.queue = o.queue))
  let ds := (s.drainQ.filter drain).map fun o => (o, (s.drainQ.takeWhile fun x => decide (x.id ≠ o.id)).countP fun x => decide (x.core = o.core))
  let s := s.dropOps copy drain
  let s := cs.foldl (fun s p => s.queueErr p.1.issuer p.1.queue
    { s.engineRec p.1.issuer (queueHandle p.1.core p.1.queue) p.1.queue 0x22 0 p.1.n with qent := p.2 }) s
  (ds.foldl (fun s p => s.queueErr p.1.issuer 4 { s.engineRec p.1.issuer (queueHandle p.1.core 4) 4 0x22 0 p.1.n with qent := p.2 }) s).reap

/-- Whether the next element of a started copy waits on a tag (R153, R379). -/
def State.copyTagWait (s : State) (o : CopyOp) : Bool :=
  match s.cset (setOf o.issuer), descElem o.src o.n with
  | some c, .at_ a =>
    if descSpace o.src = 0 ∨ descTag o.src = 0 ∨ o.grant.isSome then false
    else
      match s.spadElem c (descSpace o.src) a with
      | some (m, off) =>
        let waiter : LineRef := { o.issuer with line := 16 + o.queue }
        if s.enlisted waiter m.ref (off / 16) then !m.available (off / 16) (match o.held with | some run => run.id | none => 0)
        else !s.granReady m (off / 16) (match o.held with | some run => run.id | none => 0)
      | none => false
  | _, _ => false

/-- Whether a copy that pre-emption or abandonment meets goes on to its end (R379). -/
def State.copyRuns (s : State) (o : CopyOp) : Bool :=
  match o.state with
  | .started => !s.copyTagWait o
  | .written _ => true
  | _ => false

/-! ### Ending a line's work -/

/-- What is still to come of a line's record when the line goes: a written record keeps its pending bit to set. -/
def State.orphanRecord (s : State) (l : Line) : State :=
  match l.recStage with
  | .written g late => { s with sysRecs := s.sysRecs ++ [{ part := l.part, record := l.record, stage := .written g late }] }
  | _ => s

/-- A line is removed from the fault table; an entry on which no line is trapped goes (R408). -/
def State.leaveFaultTab (s : State) (r : LineRef) : State :=
  { s with faultTab := (s.faultTab.map fun f =>
      (decide (f.on = [r]), { f with on := f.on.filter fun x => decide (x ≠ r) })).filterMap fun p =>
        if p.1 then none else some p.2 }

/-- A grid is abandoned (R376, R395): its pending indices, images, sets and lines go; its queue operations that have not
started or wait on a tag are cancelled. -/
def State.abandon (s : State) (g : Nat) : State :=
  let mineL (r : LineRef) : Bool := decide (r.grid = g)
  let s := (s.lines.filter fun (l : Line) => mineL l.ref && decide (l.status ≠ .ended)).foldl (fun s l =>
    ((s.orphanRecord l).leaveFaultTab l.ref).releasePorts l) s
  let s := match s.grid g with
    | some x => (x.images.flatMap Image.lines).foldl (fun (s : State) (l : Line) => s.leaveFaultTab l.ref) s
    | none => s
  let s := s.cancelOps (fun o => mineL o.issuer && !s.copyRuns o) (fun o => mineL o.issuer && !o.runs)
  { (s.updGrid g fun x => { x with state := .abandoned, images := [], plan := [] }) with
    lines := s.lines.map fun (l : Line) => if mineL l.ref then
      { l with status := .ended, ports := Vector.replicate 16 Port.unbound, pend := [], kpend := [] } else l
    sets := s.sets.map fun (c : CSet) => if c.ref.grid = g then { c with phase := .ended } else c
    waitQ := s.waitQ.filter fun (q : BankReq) => !mineL q.issuer
    matQ := s.matQ.filter fun (o : MatOp) => !mineL o.issuer }.reap

/-- Operations of an abandoned grid that come to wait on a tag after its abandonment are cancelled too, so that its record follows (R379, R395). -/
def State.cancelWaiting (s : State) : State :=
  let gone (r : LineRef) : Bool := s.grids.any fun g => decide (g.id = r.grid) && decide (g.state = .abandoned)
  let copy (o : CopyOp) : Bool := gone o.issuer && !s.copyRuns o
  let drain (o : DrainOp) : Bool := gone o.issuer && !o.runs
  if s.copyQ.any copy || s.drainQ.any drain then s.cancelOps copy drain else s

/-! ### Operations that lines and the host share (R363, R369) -/

/-- What a privileged operation comes to. -/
inductive PRes where
  | val (s : State) (v : Word)
  | none (s : State)
  | wait (w : Wait)
  | fault

/-- CXRD (R375). -/
def cxrdOp (s : State) (part : Nat) (h off : Word) : PRes :=
  match s.handleCore part h, s.lineAt part h with
  | some _, some l =>
    if l.status ≠ .trapped then .fault
    else
      match l.imageWord (match s.cset (setOf l.ref) with | some c => c.hall | none => 0) off.toNat with
      | some v => .val s v
      | none => .fault
  | _, _ => .fault

/-- A granule that a port held and no longer holds is full again for every reader (R378). -/
def State.dropHolds (s : State) (old new : Line) : State :=
  (List.range 16).foldl (fun s n =>
    match (old.port n).held with
    | some run => if (new.port n).held = some run then s
        else s.updSet run.set fun c => { c with taken := c.taken.filter fun t => decide (t ≠ (run.gran, run.id)) }
    | none => s) s

/-- CXWR (R375). -/
def cxwrOp (s : State) (part : Nat) (h off v : Word) : PRes :=
  match s.handleCore part h, s.lineAt part h with
  | some _, some l =>
    if l.status ≠ .trapped then .fault
    else
      match l.imageWrite (match s.cset (setOf l.ref) with | some c => c.hall | none => 0) s.nextId off.toNat v with
      | some l' => .none { (s.dropHolds l l').setLine l' with nextId := s.nextId + 1 }
      | none => .fault
  | _, _ => .fault

/-- The word that stands at a line's pc: as the line's core fetches it, or through the page tables (R314). -/
def State.codeWord (s : State) (l : Line) : Option Word :=
  let va := s.codeVa l
  match s.cachedWord l.core l.part va with
  | some w => some w
  | none =>
    let w : Walk := { id := 0, die := coreDie l.core, core := some l.core, part := l.part, peer := false, va, write := false,
                      user := l.user, fetch := true }
    match s.walkRoot w with
    | none => none
    | some root =>
      match (walkFrom s w l.part 4 root (s.time + 2 ^ 64) [] []).2 with
      | .leaf e _ =>
        match s.leafTarget e va false l.user true with
        | .hit (.dev ca) _ => some (BitVec.ofNat 32 (readLe s.dev ca 4))
        | .hit (.host a) _ => some (BitVec.ofNat 32 (readLe s.hostMem a 4))
        | _ => none
      | .fault .. => none

/-- Disposition 1 (R376): the next thread of the issue mask above tri, or the next instruction; an instruction that is line
uniform, or that no decoder reads, is skipped whole. -/
def State.skipThread (s : State) (l : Line) : Line :=
  let i := match s.codeWord l with | some w => (decodeWord w).toOption | none => none
  match i with
  | some i =>
    if i.lineUniform then { l.next with bv := false }
    else
      match l.issueMask.find? fun j => decide (l.tri < j) with
      | some j => { l with tri := j, bv := l.bv && decide (j / 32 = l.tri / 32) }
      | none => { l.next with bv := false }
  | none => { l.next with bv := false }

/-- Disposition 2 (R376): every live thread, in the active mask or in the stack, is killed and counted. -/
def State.endLine (s : State) (l : Line) : State :=
  let live := l.entries.foldl (fun m e => m ||| e.mask) l.active
  let n := (List.range l.width).countP fun j => live.getLsbD j
  (s.updGrid l.ref.grid fun g => { g with killed := min (g.killed + n) 0xFFFFFFFF }).lineEnds
    { l with active := 0, depth := 0, pend := [], kpend := [] }

/-- A line goes on, unless a bound port's descriptor breaks R73: then it takes the illegal-pattern fault at once (R375). -/
def State.goOn (s : State) (l : Line) : State :=
  if (List.range l.nports).any fun n => (l.port n).bound && descIllegal (l.port n).desc (l.port n).write then
    s.trapEntry l.resume { cls := 0x11 } l.pc l.tri l.pc ((s.codeWord l).getD 0) l.tri
  else (s.setLine l.resume).offSlot l.ref

/-- LRESUME on a trapped line whose record's steps are performed: THE RETURN FROM AN EXCEPTION (R376). -/
def State.lresume (s : State) (l : Line) (disp : Nat) : State :=
  let s := (s.clearPending l.part l.handle).leaveFaultTab l.ref
  match disp with
  | 0 => s.goOn l
  | 1 => (s.dropWaits l).goOn { s.skipThread l with grants := [] }
  | 2 => s.endLine l
  | _ => s.abandon l.ref.grid

/-- LRESUME (R376). -/
def lresumeOp (s : State) (part : Nat) (h seq : Word) (disp : Nat) : PRes :=
  match s.handleCore part h with
  | none => .fault
  | some _ =>
    match s.lineAt part h with
    | none => .val s 0
    | some l =>
      if l.status ≠ .trapped then .val s 0
      else if l.recStage ≠ .done then
        (if l.recStage ≠ .held ∧ l.record.seq ≠ fld seq 0 16 then .val s 0 else .wait (.lresume h.toNat))
      else if l.record.seq = fld seq 0 16 then .val (s.lresume l disp) 1
      else .val s 0

/-- SPREEMPT (R379). -/
def spreemptOp (s : State) (part : Nat) (h : Word) : PRes :=
  match s.handleCore part h with
  | none => .fault
  | some _ =>
    if fld h 4 6 ≠ 0 then .fault
    else
      match s.setAt part h with
      | none => .val s 0
      | some c => if c.phase = .stopping ∨ !s.imageRoom c then .val s 0 else .val (s.preempt c) 1

/-- QCTL (R377). -/
def qctlOp (s : State) (part : Nat) (h : Word) (op : Nat) : PRes :=
  match s.handleCore part h with
  | none => .fault
  | some core =>
    let q := fld h 3 7 - 64
    if fld h 3 7 < 64 ∨ 68 < fld h 3 7 ∨ fld h 0 3 ≠ 0 then .val s 0
    else if q < 4 then
      match s.copyHead core q with
      | some o =>
        if !o.state.isStopped ∨ o.part ≠ part then .val s 0
        else if op = 0 then .val (s.setCopy { o with state := .started }) 1
        else if op = 1 then .val (s.dropOps (fun x => decide (x.id = o.id)) fun _ => false).reap 1
        else if op = 2 then .val (s.cancelOps (fun x => decide (x.core = core) && decide (x.queue = q)) fun _ => false) 1
        else .fault
      | none => .val s 0
    else
      match s.drainQ.find? fun o => decide (o.core = core) with
      | some o =>
        if !o.state.isStopped ∨ o.part ≠ part then .val s 0
        else if op = 0 then
          let k := match o.kind with | .mmas w d t d0 d1 _ _ => DrainKind.mmas w d t d0 d1 [] false | k => k
          .val { s with drainQ := upd (fun x => decide (x.id = o.id)) (fun x => { x with state := .started, kind := k }) s.drainQ } 1
        else if op = 1 then .val (s.dropOps (fun _ => false) fun x => decide (x.id = o.id)).reap 1
        else if op = 2 then .val (s.cancelOps (fun _ => false) fun x => decide (x.core = core)) 1
        else .fault
      | none => .val s 0

/-! ### The instructions -/

/-- A privileged instruction (R210, R369): at user level the privileged-instruction fault; else line-uniform, its result
written to k(d). -/
def privForm (i : Instr) (operands : Line → Bool) (ks : List Nat) (d : Option Nat) (f : State → Line → PRes) (s : State) : Out :=
  onLine s fun l =>
    if !l.pl then .next (faultAt s l i 0 { cls := 0x02 })
    else if !operands l then .next (faultAt s l i 0 { cls := 0x03 })
    else if s.unconfirmed l.ref then .next (s.park l .confirm 0)
    else
      match l.pendingK (d.toList ++ ks) with
      | some n => .next (s.park l (.kreg n) 0)
      | none =>
        match f s l with
        | .fault => .next (faultAt s l i 0 { cls := 0x22 })
        | .wait w => .next (s.park l w 0)
        | .none s' => .next (goes s' l fun m => m)
        | .val s' v => .next (goes s' l fun m => match d with | some n => m.setK n v | none => m)
where
  /-- The line goes on as the operation left it; it may have ended with its grid. -/
  goes (s : State) (l : Line) (g : Line → Line) : State :=
    match s.line l.ref with
    | none => s
    | some m => if m.status = .ended then s else s.finish (g m)

def Line.num2 (a : Fld) : List Nat := [a.num, a.num + 1]

def execPrd (d a : Fld) (s : State) : Out :=
  privForm (.prd d a) (fun l => l.okKf false d && l.okKf false a) [a.num] (some d.num)
    (fun s l => if 0xFFFF < (l.kr a.num).toNat then .fault
      else match s.privRead l.part (l.kr a.num).toNat with | some v => .val s v | none => .fault) s

def execPwr (a b : Fld) (s : State) : Out :=
  privForm (.pwr a b) (fun l => l.okKf false a && l.okKf false b) [a.num, b.num] none
    (fun s l => if 0xFFFF < (l.kr a.num).toNat then .fault
      else match s.privWrite l.part (l.kr a.num).toNat (l.kr b.num) with | some s' => .none s' | none => .fault) s

def execCxrd (d a : Fld) (s : State) : Out :=
  privForm (.cxrd d a) (fun l => l.okKf false d && l.okK2 a) (Line.num2 a) (some d.num)
    (fun s l => cxrdOp s l.part (l.kr a.num) (l.kr (a.num + 1))) s

def execCxwr (a b : Fld) (s : State) : Out :=
  privForm (.cxwr a b) (fun l => l.okK2 a && l.okKf false b) (b.num :: Line.num2 a) none
    (fun s l => cxwrOp s l.part (l.kr a.num) (l.kr (a.num + 1)) (l.kr b.num)) s

def execLresume (d a : Fld) (disp : Fin 4) (s : State) : Out :=
  privForm (.lresume d a disp) (fun l => l.okKf false d && l.okK2 a) (Line.num2 a) (some d.num)
    (fun s l => lresumeOp s l.part (l.kr a.num) (l.kr (a.num + 1)) disp) s

def execSpreempt (d a : Fld) (s : State) : Out :=
  privForm (.spreempt d a) (fun l => l.okKf false d && l.okKf false a) [a.num] (some d.num)
    (fun s l => spreemptOp s l.part (l.kr a.num)) s

def execQctl (d a : Fld) (op : Fin 4) (s : State) : Out :=
  privForm (.qctl d a op) (fun l => l.okKf false d && l.okKf false a) [a.num] (some d.num)
    (fun s l => qctlOp s l.part (l.kr a.num) op) s

/-! ### Figure tables (R338, R381, R382) -/

/-- The Reset value of a word of a pending slot (R338). -/
def slotDefault (w : Nat) : Word := if w = 0 then 10000 else if w = 1 then 200 else if w = 2 then 0xFFFF else 0
/-- A word of the pending table, at the index of R381; it is stored by its difference from the Reset value. -/
def Partition.pendWord (p : Partition) (i : Nat) : Word := tget 0 p.pendFig i ^^^ slotDefault (i % 32)

def execFtset (a b : Fld) (s : State) : Out :=
  privForm (.ftset a b) (fun l => l.okKf false a && l.okKf false b) [a.num, b.num] none
    (fun s l =>
      let p := s.part l.part
      let i := (l.kr a.num).toNat
      if 0x7FF < i ∨ 19 ≤ i % 32 ∨ p.commit.isSome ∨ (3 ≤ i % 32 ∧ !p.pport.testBit (i % 32 - 3)) then .fault
      else .none (s.updPart l.part fun p => { p with pendFig := tset 0 p.pendFig i (l.kr b.num ^^^ slotDefault (i % 32)) })) s

/-- Slot n of the pending table. -/
def Partition.pendSlot (p : Partition) (n : Nat) : Slot :=
  { len := (p.pendWord (32 * n)).toNat, guard := (p.pendWord (32 * n + 1)).toNat, dark := fld (p.pendWord (32 * n + 2)) 0 16,
    ports := (List.range 16).map fun i => p.pendWord (32 * n + 3 + i) }

/-- The limits of R338 on a slot. -/
def Slot.ok (sl : Slot) : Bool :=
  decide (2000 ≤ sl.len) && decide (sl.len ≤ 1000000) && decide (200 ≤ sl.guard) && decide (sl.guard + 1000 ≤ sl.len)

def execFtcommit (a b : Fld) (s : State) : Out :=
  privForm (.ftcommit a b) (fun l => l.okK2 a && l.okKf false b) (b.num :: Line.num2 a) none
    (fun s l =>
      let p := s.part l.part
      let shape := l.kr b.num
      let e := (l.kr (a.num + 1)).toNat * 2 ^ 32 + (l.kr a.num).toNat
      let slots := (List.range (fld shape 0 6 + 1)).map p.pendSlot
      let off : Bool := match p.figure with | some f => decide (e < f.epoch) || decide ((e - f.epoch) % f.round ≠ 0) | none => false
      if fld shape 6 2 ≠ 0 ∨ p.commit.isSome ∨ !slots.all Slot.ok ∨ e < s.time + fld shape 8 24 + 10000 ∨ off then .fault
      else .none (s.updPart l.part fun p => { p with commit := some { slots, epoch := e, hold := fld shape 8 24 } })) s

/-! ### Region tables (R383, R384) -/

/-- A word of a region. -/
def Partition.region (p : Partition) (i w : Nat) : Word := tget 0 p.regions (8 * i + w)
/-- The range of a region in bytes. -/
def Partition.regionRange (p : Partition) (i : Nat) : Nat × Nat :=
  (fld (p.region i 0) 0 24 * 0x10000, fld (p.region i 1) 0 24 * 0x10000)

/-- Setting V is refused: no length, or an overlap with another valid region. -/
def Partition.regionBad (p : Partition) (i : Nat) : Bool :=
  let r := p.regionRange i
  decide (r.2 = 0) || (List.range 256).any fun j => decide (j ≠ i) && bit (p.region j 2) 0 &&
    decide (r.1 < (p.regionRange j).1 + (p.regionRange j).2) && decide ((p.regionRange j).1 < r.1 + r.2)

def execRgset (a b : Fld) (s : State) : Out :=
  privForm (.rgset a b) (fun l => l.okKf false a && l.okKf false b) [a.num, b.num] none
    (fun s l =>
      let p := s.part l.part
      let x := (l.kr a.num).toNat
      let i := x / 8
      let w := x % 8
      let v := l.kr b.num
      let put (v : Word) : PRes := .none (s.updPart l.part fun p => { p with regions := tset 0 p.regions x v })
      if 0x7FF < x then .fault
      else if w < 2 then (if bit (p.region i 2) 0 then .fault else put (v &&& 0xFFFFFF))
      else if w = 2 then
        (if bit v 0 && p.regionBad i then .fault else put ((p.region i 2 &&& 6) ||| (v &&& 1)))
      else if w = 3 then .fault
      else if 6 ≤ fld v 0 3 then .fault
      else put (v &&& 0xFFFF0007)) s

/-- RGPHASE: the model's fabric receive and host link perform a write in the step that checks it, so none checked under the old
phase is in flight when the phase changes. (DEDUCED, assumption 33.) -/
def execRgphase (a b : Fld) (s : State) : Out :=
  privForm (.rgphase a b) (fun l => l.okKf false a && l.okKf false b) [a.num, b.num] none
    (fun s l =>
      let p := s.part l.part
      let i := (l.kr a.num).toNat
      let v := l.kr b.num
      if 0xFF < i ∨ 3 < v.toNat ∨ !bit (p.region i 2) 0 then .fault
      else .none (s.updPart l.part fun p => { p with regions := tset 0 p.regions (8 * i + 2) (putBits (p.region i 2) 1 2 v.toNat) })) s

/-! ### Illegal instructions (R201, R203, R210, R211) -/

/-- ILLEGAL_INSTRUCTION: a word that decodes to no instruction takes the illegal-instruction fault before any thread issues;
a word of major 0x3E at user level takes the privileged-instruction fault. -/
def execIllegalInstruction (w : Word) (s : State) : Out :=
  onLine s fun l =>
    let cls := if fld w 26 6 = 0x3E ∧ l.pl = false then 0x02 else 0x01
    .next (stopAt s l 0 w { cls })

end Sys2Proof.Machine
end

