-- ==== Sys2Proof/Machine/Fabric.lean ====
section
/-!
DEFINITION. The fabric (13_fabric.md): packets and flits as bytes, the slots of a figure table, what a port sends and
receives, relay, encryption, the change of a figure table, of a port's mode and of a key (R330 to R345, R350, R367, R368, R431,
R432).
-/
namespace Sys2Proof.Machine

/-! ### Packets as bytes (R333, R334) -/

/-- The header of a packet (R333). -/
def Packet.header (p : Packet) (dlen : Nat) : List Byte :=
  bytesOf (p.ty % 16 + p.dpkg % 4096 * 2 ^ 4 + p.ddie % 2 * 2 ^ 16 + p.spkg % 4096 * 2 ^ 17 + p.sdie % 2 * 2 ^ 29 +
    (if p.rly then 2 ^ 30 else 0) + (if p.enc then 2 ^ 31 else 0) + p.cls % 2 * 2 ^ 32 + dlen % 256 * 2 ^ 33 +
    p.seq % 2 ^ 23 * 2 ^ 41 + p.addr % 2 ^ 51 * 2 ^ 64 + p.aux % 2 ^ 13 * 2 ^ 115) 16

/-- `n` rounded up to a multiple of 16. -/
def up16 (n : Nat) : Nat := (n + 15) / 16 * 16

/-- The bytes of a line that a mask names, in ascending address; `w` bytes for each bit. -/
def gatherMask (mask w : Nat) (bs : List Byte) : List Byte :=
  (((List.range (128 / w)).filter fun i => mask.testBit i).map fun i => (bs.drop (i * w)).take w).flatten

/-- Bytes put back at the places that a mask names. -/
def scatterMask (mask w : Nat) (bs : List Byte) : List Byte :=
  (List.range 128).map fun i =>
    if mask.testBit (i / w) then nth 0 bs (((List.range (i / w)).countP fun k => mask.testBit k) * w + i % w) else 0

/-- The data of a packet as it travels, and its body: the extension or mask, then the data padded (R334). -/
def Packet.dataBytes (p : Packet) : List Byte :=
  match p.ty with
  | 0 | 1 | 3 => gatherMask p.mask 1 p.data
  | 6 => gatherMask p.mask 4 p.data
  | 5 => padTo 16 p.data
  | 7 => padTo 8 p.data
  | _ => []
def Packet.body (p : Packet) : List Byte :=
  let d := p.dataBytes
  match p.ty with
  | 1 => bytesOf p.mask 16 ++ padTo (up16 d.length) d
  | 2 => bytesOf p.mask 16
  | 4 => padTo 16 p.ext
  | 5 => d ++ padTo 8 p.ext
  | 6 => padTo 16 p.ext ++ bytesOf p.mask 16 ++ d
  | _ => padTo (up16 d.length) d |>.take (if p.ty = 7 then 8 else 128)

/-- The length of a packet whose header is known. -/
def wireSize (ty dlen : Nat) (enc : Bool) : Nat :=
  16 + (match ty with
    | 0 => 128
    | 1 => 16 + up16 dlen
    | 2 => 16
    | 4 => 16
    | 5 => 24
    | 6 => 32 + dlen
    | 7 => 8
    | 8 => 0
    | _ => up16 dlen) + (if enc then 16 else 0)

/-- A packet from its header and body. -/
def Packet.ofWire (h body : List Byte) : Packet :=
  let n := leNat h
  let ty := n % 16
  let dlen := bitsAt n 33 8
  let addr := bitsAt n 64 51
  let mask := match ty with
    | 0 => 2 ^ 128 - 1
    | 1 | 2 => leNat (body.take 16)
    | 3 => (2 ^ dlen - 1) * 2 ^ (addr % 128)
    | 6 => leNat ((body.drop 16).take 16)
    | _ => 0
  { ty, dpkg := bitsAt n 4 12, ddie := bitsAt n 16 1, spkg := bitsAt n 17 12, sdie := bitsAt n 29 1, rly := n.testBit 30,
    enc := n.testBit 31, cls := bitsAt n 32 1, dlen, seq := bitsAt n 41 23, addr, aux := bitsAt n 115 13, mask
    ext := match ty with | 4 => body.take 16 | 5 => (body.drop 16).take 8 | 6 => body.take 16 | _ => []
    data := match ty with
      | 0 => body.take 128
      | 1 => scatterMask mask 1 (body.drop 16)
      | 3 => body.take dlen
      | 5 => body.take 16
      | 6 => scatterMask mask 4 (body.drop 32)
      | 7 => body.take 8
      | _ => [] }

/-- The initialisation vector of R350. (DESIGN CHOICE, assumption 50.) -/
def gcmIv (p : Packet) (ctr : Nat) : List Byte :=
  bytesOf (ctr % 2 ^ 64 + (p.ddie % 2 * 2 ^ 6 + p.dpkg % 4096 * 2 ^ 7 + p.sdie % 2 * 2 ^ 19 + p.spkg % 4096 * 2 ^ 20) * 2 ^ 64) 12

/-- The packet counter of a key, a source die and a direction; a new key's starts at zero (R350, R367). -/
def State.keyCtr (s : State) (key : List Byte) (die : Nat) (rx : Bool) : KeyCtr :=
  (s.fab.counters.find? fun c => decide (c.key = key) && decide (c.die = die) && (c.rx == rx)).getD { key, die, rx, next := 0, missed := [] }
def State.setKeyCtr (s : State) (k : KeyCtr) : State :=
  s.updFab fun f => { f with counters := k :: f.counters.filter fun c => !(decide (c.key = k.key) && decide (c.die = k.die) && (c.rx == k.rx)) }

/-- A packet as it leaves by a figure-mode or a packet-mode port: encrypted when a key is in force for its peer there (R350, R367). -/
def State.seal (s : State) (part : Nat) (packet : Bool) (p : Packet) : List Byte × State :=
  let p := if p.ty = 1 ∧ p.mask = 2 ^ 128 - 1 then { p with ty := 0 } else p
  let mine := decide (p.spkg = s.pkg.domid)
  match (if mine then s.sendKey part p.dpkg p.ddie packet else none) with
  | none => (p.header p.dataBytes.length ++ p.body, s)
  | some k =>
    let p := { p with enc := true }
    let h := p.header p.dataBytes.length
    let ctr := s.keyCtr k.out p.sdie false
    let c := gcmSeal k.out (gcmIv p ctr.next) h p.body
    (h ++ c.1 ++ c.2, s.setKeyCtr { ctr with next := ctr.next + 1 })

/-- The handle of the key under which a packet leaves, zero for none (R367). -/
def State.keyNo (s : State) (part : Nat) (packet : Bool) (p : Packet) : Nat :=
  match s.sendKey part p.dpkg p.ddie packet with | some k => k.handle | none => 0

/-- Whether a key's packet counter has reached its end: sending stops under it (R418). -/
def State.keySpent (s : State) (part : Nat) (packet : Bool) (p : Packet) : Bool :=
  match s.sendKey part p.dpkg p.ddie packet with
  | none => false
  | some k => decide (2 ^ 64 - 1 ≤ (s.keyCtr k.out p.sdie false).next)

/-! ### Slots (R338, R339) -/

/-- The slot that holds a tick, with its start. -/
def slotAt (f : Figure) (t : Nat) : Option (Nat × Slot) :=
  if t < f.epoch ∨ f.round = 0 then none else go f.slots (t - (t - f.epoch) % f.round)
where
  go : List Slot → Nat → Option (Nat × Slot)
    | [], _ => none
    | sl :: r, start => if t < start + sl.len then some (start, sl) else go r (start + sl.len)

/-- What the link layer keeps for the peer port that the port faces now. -/
def FPort.link (q : FPort) : Link := { fseq := q.fseq, rack := q.rack, rrq := q.rrq, replaying := q.replaying, replay := q.replay }

/-- The port faces a peer port: what its link layer kept for it comes back, so that flits not yet replayed are replayed to the peer port
that they were sent to (R332). A FACE never seen begins as at reset. (DESIGN CHOICE, assumption 78.) -/
def FPort.turnTo (q : FPort) (face : Option (Nat × Nat)) : FPort :=
  if q.face = face then q
  else
    let kept := (q.face, q.link) :: q.links
    let l := match kept.find? fun x => decide (x.1 = face) with
      | some x => x.2
      | none => FPort.reset.link
    { q with face, links := kept.filter fun x => decide (x.1 ≠ face), fseq := l.fseq, rack := l.rack, rrq := l.rrq, replaying := l.replaying,
             replay := l.replay }

/-- Flits in the port's replay buffer, which holds 1,024 (R332). -/
def FPort.kept (q : FPort) : Nat := q.replay.length + (q.links.map fun x => x.2.replay.length).foldl (· + ·) 0

def State.port (s : State) (n : Nat) : FPort := s.fab.ports.getD n FPort.reset
def State.setPort (s : State) (n : Nat) (q : FPort) : State := s.updFab fun f => { f with ports := f.ports.setIfInBounds n q }

/-- The enabled partition that holds a port (R412, R419). -/
def State.portPart (s : State) (n : Nat) : Option Nat := (List.range 8).find? fun p => (s.part p).pen && (s.part p).pport.testBit n

/-- A tick at a round boundary of the table in force, or any tick when none is in force. -/
def State.atRound (s : State) (part : Nat) : Bool :=
  match (s.part part).figure with
  | some f => decide (f.epoch ≤ s.time) && decide ((s.time - f.epoch) % f.round = 0)
  | none => true

/-- SLOT_START: for each figure-mode port of the partition, the slot's FACE is compared with the one before; a port whose FACE
differs relocks in this slot's guard, and so does one that is not locked (R432). -/
def State.slotStart (s : State) (part : Nat) : State :=
  match (s.part part).figure with
  | none => s
  | some f =>
    match slotAt f s.time with
    | none => s
    | some (start, sl) =>
      s.updFab fun fb => { fb with ports := Vector.ofFn fun n : Fin 16 =>
        let q := fb.ports.get n
        if (s.part part).pport.testBit n && !q.packet && decide (q.slotAt < start) then
          let face := slotFace sl n
          { q.turnTo face with slotAt := start, nulls := 0, locked := q.locked && decide (q.face = face) }
        else q }

def execSlotStart (part : Nat) (s : State) : Out := .next (s.slotStart part)

/-- A port that is not locked at the end of its slot's guard misses the slot, which is counted (R432). -/
def State.missSlot (s : State) (port : Nat) : State :=
  let q := s.port port
  match (s.portPart port).bind fun part => (s.part part).figure.bind fun f => slotAt f s.time with
  | none => s
  | some (start, sl) =>
    if q.slotAt = start ∧ start + sl.guard ≤ s.time ∧ q.locked = false ∧ q.packet = false ∧ (slotFace sl port).isSome ∧ q.nulls < 9 then
      (s.setPort port { q with nulls := 9 }).updPkg fun p => p.count (Counter.relockFail port)
    else s

/-- RELOCK_FAILURE: the guard of the slot has ended and the port is not locked; the slot is missed and counted (R432). -/
def execRelockFailure (port : Nat) (s : State) : Out := .next (s.missSlot port)

/-! ### What a port may send (R340 to R344, R368) -/

/-- The stream that carries packets for a destination: the package, the die when it is fixed, and whether through a relay. -/
def State.via (s : State) (part pkg die : Nat) : Option (Nat × Option Nat × Bool) :=
  if s.faced part pkg die then some (pkg, some die, false)
  else (s.relayOf part pkg die).map fun x => (x, none, true)

/-- Whether a stream carries packets for a destination, and through a relay. -/
def State.carries (s : State) (part : Nat) (dest : Nat × Nat) (pkg die : Nat) : Option Bool :=
  match s.via part pkg die with
  | some (p, d, r) => if p = dest.1 ∧ (d = none ∨ d = some dest.2) then some r else none
  | none => none

/-- Whether an entry's instruction may still join accesses to its packet: its line stands inside it and has not stopped (R334). -/
def State.gathering (s : State) (e : SendEnt) : Bool :=
  match e.issuer.bind s.line with
  | none => false
  | some l => e.ofInstr l && (match e.item with | .packet p => decide (p.ty ≠ 4) | .marker _ => false) &&
      (match s.cset (setOf l.ref) with | some c => decide (c.phase = .resident) | none => false) &&
      (match l.status with | .trapped | .ended | .wait .confirm | .wait (.fault ..) => false | _ => true)

/-- Whether an entry may not leave yet: a release that is held (R175), a deterministic grid's (R194), one that its instruction still
gathers (R334). A later write to another queue does not wait for the answer to an earlier one (R359). (DEDUCED, assumption 14.) -/
def State.entryHeld (s : State) (e : SendEnt) : Bool :=
  e.held.isSome || (match e.issuer with | some r => s.heldByTicket (setOf r) | none => false) || s.gathering e

/-- The first entry of a class that may be sent to a stream: each source queue is served in order, from a refused packet on once that is
sent again; where the rest of a split packet waits for its stream, no later packet of the queue leaves by a packet-mode port or in another
stream, as where a relay's two dies are faced (R336, R341, R343, R346). -/
def State.headEnt (s : State) (part : Nat) (packet : Bool) (dest : Nat × Nat) (cls : Nat) : Option SendEnt :=
  go s.fab.sendQ []
where
  go : List SendEnt → List Nat → Option SendEnt
    | [], _ => none
    | e :: r, blocked =>
      match e.item with
      | .marker _ => go r blocked
      | .packet p =>
        let q := queueNo e.die e.pkg e.ddie e.cls
        if e.part ≠ part ∨ e.cls ≠ cls ∨ e.pkg = s.pkg.domid ∨ blocked.contains q ∨
            (s.carries part dest e.pkg e.ddie).isNone then go r blocked
        else if e.sent then go r (if decide (0 < e.notBefore) || (s.fab.tx.any fun t => decide (t.id = e.id) && (packet || decide (t.dest ≠ dest))) then q :: blocked else blocked)
        else if s.entryHeld e ∨ s.keySpent part packet p then go r (q :: blocked)
        else some e

/-- Acknowledgements, refusals and atomic results, which travel ahead of data (R336). -/
def isReverse (ty : Nat) : Bool := decide (ty = 5) || decide (ty = 7) || decide (ty = 8)

/-- Two packets of one source queue. -/
def Packet.sameQueue (p q : Packet) : Bool :=
  decide (p.spkg = q.spkg) && decide (p.sdie = q.sdie) && decide (p.dpkg = q.dpkg) && decide (p.ddie = q.ddie) && decide (p.cls = q.cls)

/-- The first relayed packet for a stream, of the reverse direction or of data; none passes the rest of a split packet of its queue by a
packet-mode port (R341, R343). A relay keeps a packet's body as it came: it is held whole in the data. -/
def State.headRelay (s : State) (part : Nat) (packet : Bool) (dest : Nat × Nat) (back : Bool) : Option Arrival :=
  s.fab.relay.find? fun a => decide (a.part = part) && decide (a.pkt.dpkg = dest.1) && decide (a.pkt.ddie = dest.2) && (isReverse a.pkt.ty == back) &&
    !(s.fab.tx.any fun t => (packet || decide (t.dest ≠ dest)) && (match t.whole with | some b => t.data && b.pkt.sameQueue a.pkt | none => false))

/-- The size of what a class would send next. -/
def State.headSize (s : State) (part : Nat) (packet : Bool) (dest : Nat × Nat) (cls : Nat) : Option Nat :=
  if cls = 2 then (s.headRelay part packet dest false).map fun a => 16 + a.pkt.data.length
  else (s.headEnt part packet dest cls).bind fun e =>
    match e.item with
    | .packet p => some (Packet.size { p with enc := (s.sendKey part p.dpkg p.ddie packet).isSome })
    | .marker _ => none

/-- The number of a destination's stream of a partition. -/
def destKey (part : Nat) (dest : Nat × Nat) : Nat := 8192 * part + 2 * dest.1 + dest.2

/-- A flit under construction. -/
structure Fill where
  s : State
  buf : List Byte
  data : Bool

/-- Bytes placed in the flit; what does not fit is sent in the stream's next flit (R331, R340). `t` says what the bytes are. -/
def Fill.put (f : Fill) (t : TxRest) : Fill :=
  let room := 236 - f.buf.length
  { s := if t.bytes.length ≤ room then f.s else f.s.updFab fun fb => { fb with tx := fb.tx ++ [{ t with bytes := t.bytes.drop room }] }
    buf := f.buf ++ t.bytes.take room
    data := f.data || t.data }

/-- Takes the next packet of a class into the flit. -/
def Fill.take (f : Fill) (part : Nat) (packet : Bool) (dest : Nat × Nat) (cls : Nat) : Fill :=
  if cls = 2 then
    match f.s.headRelay part packet dest false with
    | none => f
    | some a =>
      { f with s := f.s.updFab fun fb => { fb with relay := fb.relay.erase a } }.put
        { part, dest, data := true, src := none, id := 0, whole := some a, bytes := a.pkt.header a.pkt.dlen ++ a.pkt.data }
  else
    match f.s.headEnt part packet dest cls with
    | none => f
    | some e =>
      match e.item with
      | .marker _ => f
      | .packet p =>
        let w := f.s.seal part packet { p with rly := (f.s.carries part dest e.pkg e.ddie).getD false }
        let sendQ := upd (fun x => decide (x.id = e.id)) (fun x => { x with sent := true, notBefore := 0, key := f.s.keyNo part packet p }) w.2.fab.sendQ
        ({ f with s := w.2.updFab fun fb => { fb with sendQ := sendQ } } : Fill).put
          { part, dest, data := true, src := some (e.die, e.pkg, e.ddie), id := e.id, whole := none, bytes := w.1 }

/-- Deficit round robin among the classes of a destination (R342): a packet that the flit does not hold whole is split (R340). -/
def fillLoop (part : Nat) (dest : Nat × Nat) (key : Nat) : Nat → Fill → Fill
  | 0, f => f
  | n + 1, f =>
    if 236 ≤ f.buf.length then f
    else if (List.range 3).all fun c => (f.s.headSize part false dest c).isNone then
      { f with s := f.s.updFab fun fb => { fb with credits := (List.range 3).foldl (fun t c => tset 0 t (3 * key + c) 0) fb.credits } }
    else
      let v := tget 0 f.s.fab.visit key
      let c := v / 2
      let credit := tget 0 f.s.fab.credits (3 * key + c)
      let move (f : Fill) (credit : Nat) : Fill := { f with s := f.s.updFab fun fb => { fb with
        visit := tset 0 fb.visit key ((c + 1) % 3 * 2), credits := tset 0 fb.credits (3 * key + c) credit } }
      match f.s.headSize part false dest c with
      | none => fillLoop part dest key n (move f 0)
      | some size =>
        let credit := if v % 2 = 0 then credit + bitsAt (f.s.part part).clsw (4 * c) 4 * 236 else credit
        if credit < size then fillLoop part dest key n (move f credit)
        else
          let f := { f with s := f.s.updFab fun fb => { fb with
            visit := tset 0 fb.visit key (2 * c + 1), credits := tset 0 fb.credits (3 * key + c) (credit - size) } }
          fillLoop part dest key n (f.take part false dest c)

/-- The unfinished packet of a destination's stream. -/
def State.txRest (s : State) (part : Nat) (dest : Nat × Nat) : Option TxRest :=
  s.fab.tx.find? fun t => decide (t.part = part) && decide (t.dest = dest)

/-- The unfinished packet goes first. -/
def Fill.rest (f : Fill) (part : Nat) (dest : Nat × Nat) : Fill :=
  match f.s.txRest part dest with
  | none => f
  | some t => { f with s := f.s.updFab fun fb => { fb with tx := fb.tx.filter fun u => !(decide (u.part = part) && decide (u.dest = dest)) } }.put t

/-- Whether a reverse-direction packet may leave: the package's own not under a key whose counter has reached its end (R350, R418). -/
def State.backOk (s : State) (part : Nat) (packet : Bool) (a : Arrival) : Bool :=
  decide (a.part = part) && !(decide (a.pkt.spkg = s.pkg.domid) && s.keySpent part packet a.pkt)

/-- The size of a reverse-direction packet as it leaves: the package's own may be encrypted; a relay keeps a body as it came (R343, R350). -/
def State.backSize (s : State) (part : Nat) (packet : Bool) (a : Arrival) : Nat :=
  if a.pkt.spkg = s.pkg.domid then Packet.size { a.pkt with enc := (s.sendKey part a.pkt.dpkg a.pkt.ddie packet).isSome } else 16 + a.pkt.data.length

/-- Reverse-direction packets go ahead of data (R336): the package's own, then those that it relays; with `whole`, as many as the flit holds whole. -/
def fillBack (part port : Nat) (packet whole : Bool) (dest : Nat × Nat) : Nat → Fill → Fill
  | 0, f => f
  | n + 1, f =>
    let full (a : Arrival) : Bool := whole && decide (236 < f.buf.length + f.s.backSize part packet a)
    if 236 ≤ f.buf.length then f
    else
      let rest (a : Arrival) (bytes : List Byte) : TxRest := { part, dest, data := false, src := none, id := 0, whole := some a, bytes }
      match f.s.fab.back.find? fun a => f.s.backOk part packet a && (match a.port with
          | some q => decide (q = port)
          | none => decide (a.pkt.dpkg ≠ f.s.pkg.domid) && (f.s.carries part dest a.pkt.dpkg a.pkt.ddie).isSome) with
      | some a =>
        let w := f.s.seal part packet { a.pkt with rly := (f.s.carries part dest a.pkt.dpkg a.pkt.ddie).getD false }
        if full a then f else fillBack part port packet whole dest n ({ f with s := w.2.updFab fun fb => { fb with back := fb.back.erase a } }.put (rest a w.1))
      | none =>
        match f.s.headRelay part packet dest true with
        | some a => if full a then f else fillBack part port packet whole dest n
            ({ f with s := f.s.updFab fun fb => { fb with relay := fb.relay.erase a } }.put (rest a (a.pkt.header a.pkt.dlen ++ a.pkt.data)))
        | none => f

/-- A payload area filled up with padding, whose first byte has TYPE 0xF. (DESIGN CHOICE, assumption 50.) -/
def padPayload (bs : List Byte) : List Byte := if 236 ≤ bs.length then bs.take 236 else padTo 236 (bs ++ [0x0F])

/-- Whether a payload area holds whole reverse-direction packets and padding, and nothing else. -/
def acksOnly : Nat → List Byte → Bool
  | 0, _ => false
  | n + 1, bs =>
    match bs with
    | [] => false
    | b :: r =>
      if b = 0x0F then r.all fun c => decide (c = 0)
      else
        let h := leNat (bs.take 16)
        let size := wireSize (h % 16) (bitsAt h 33 8) (h.testBit 31)
        isReverse (h % 16) && decide (size ≤ bs.length) && acksOnly n (bs.drop size)

/-- A flit that begins with the rest of a split packet and would read as one of acknowledgements holds the rest alone, and padding that tells it
apart. (DESIGN CHOICE, assumption 51.) -/
def Fill.toldApart (f alone : Fill) : Fill :=
  if acksOnly 16 (padPayload f.buf) then { alone with buf := alone.buf ++ [0xFF] } else f

/-- The payload of a flit for a destination; `data` when data may be sent. A split packet continues in the stream's next flit (R340). While its
rest waits because data may not be sent (R341, R345, R368), acknowledgements, refusals and results still leave (R336, R431), in flits that
hold nothing else: the receiver tells these by what they hold, and the packet continues in the next flit that is none of them. (DESIGN CHOICE,
assumption 51.) -/
def State.fillFlit (s : State) (part port : Nat) (dest : Nat × Nat) (data : Bool) : Fill :=
  let back (whole : Bool) (f : Fill) : Fill := fillBack part port false whole dest (s.fab.back.length + s.fab.relay.length + 1) f
  let empty : Fill := { s, buf := [], data := false }
  match s.txRest part dest with
  | some t =>
    if t.data && !data then back true empty
    else
      let rest := Fill.rest empty part dest
      let f := back false rest
      (if data then fillLoop part dest (destKey part dest) (3 * s.fab.sendQ.length + 3 * s.fab.relay.length + 12) f else f).toldApart rest
  | none =>
    let f := back false empty
    if data then fillLoop part dest (destKey part dest) (3 * s.fab.sendQ.length + 3 * s.fab.relay.length + 12) f else f

/-- A destination that a packet-mode flit may serve for a class. -/
def State.packetDests (s : State) (part cls : Nat) : List (Nat × Nat) :=
  let ds := if cls = 2 then (s.fab.relay.filter fun a => decide (a.part = part)).map fun a => (a.pkt.dpkg, a.pkt.ddie)
    else (s.fab.sendQ.filter fun e => decide (e.part = part) && decide (e.cls = cls)).map fun e => (e.pkg, e.ddie)
  ds.filter fun d => s.packetReaches part d.1 && (s.headSize part true d cls).isSome

/-- The next destination in turn, in ascending (package, die) order after the last served. -/
def State.nextDest (s : State) (part cls : Nat) : Option (Nat × Nat) :=
  let last := tget 0 s.fab.turn (3 * part + cls)
  let ks := (s.packetDests part cls).map (destKey 0)
  let least (l : List Nat) : Option Nat := l.foldl (fun m k => match m with | none => some k | some j => some (min j k)) none
  let k := match least (ks.filter fun k => decide (last ≤ k)) with | some k => some k | none => least ks
  k.map fun k => (k / 2, k % 2)

/-- The class of a packet-mode flit, and the state of the rotation (R342). -/
def State.packetClass (s : State) (part : Nat) : Nat → Option (Nat × Nat) × Nat × State
  | 0 => (none, 0, s)
  | n + 1 =>
    let key := 2 ^ 20 + part
    let v := tget 0 s.fab.visit key
    let c := v / 2
    let credit := tget 0 s.fab.credits (3 * key + c)
    let move (credit : Nat) : State := s.updFab fun fb => { fb with
      visit := tset 0 fb.visit key ((c + 1) % 3 * 2), credits := tset 0 fb.credits (3 * key + c) credit }
    match s.nextDest part c with
    | none => (move 0).packetClass part n
    | some d =>
      let size := (s.headSize part true d c).getD 0
      let credit := if v % 2 = 0 then credit + bitsAt (s.part part).clsw (4 * c) 4 * 236 else credit
      if credit < size then (move credit).packetClass part n
      else (some d, c, s.updFab fun fb => { fb with
        visit := tset 0 fb.visit key (2 * c + 1), credits := tset 0 fb.credits (3 * key + c) credit
        turn := tset 0 fb.turn (3 * part + c) (destKey 0 d + 1) })

/-- Packets of one class to one destination while its credit covers them and the flit holds them whole: a packet-mode flit carries whole
packets, since nothing in a flit tells whose packet it would continue. (DESIGN CHOICE, assumption 51.) -/
def packetLoop (part cls : Nat) (dest : Nat × Nat) : Nat → Fill → Fill
  | 0, f => f
  | n + 1, f =>
    let key := 2 ^ 20 + part
    let credit := tget 0 f.s.fab.credits (3 * key + cls)
    match f.s.headSize part true dest cls with
    | none => f
    | some size =>
      if 236 < f.buf.length + size ∨ credit < size then f
      else packetLoop part cls dest n
        (({ f with s := f.s.updFab fun fb => { fb with credits := tset 0 fb.credits (3 * key + cls) (credit - size) } }).take part true dest cls)

/-- The destination of the first reverse-direction packet that a packet-mode port may carry. -/
def State.backDest (s : State) (part port : Nat) : Option (Nat × Nat) :=
  match s.fab.back.find? fun a => s.backOk part true a && (decide (a.port = some port) ||
      (decide (a.port = none) && decide (a.pkt.dpkg ≠ s.pkg.domid) && s.packetReaches part a.pkt.dpkg)) with
  | some a => some (a.pkt.dpkg, a.pkt.ddie)
  | none => (s.fab.relay.find? fun a => decide (a.part = part) && isReverse a.pkt.ty && s.packetReaches part a.pkt.dpkg).map fun a => (a.pkt.dpkg, a.pkt.ddie)

/-- The payload of a packet-mode flit: reverse-direction packets, of which four fit whatever they are, or a class's packets. -/
def State.fillPacket (s : State) (part port : Nat) (data : Bool) : Fill :=
  let empty : Fill := { s, buf := [], data := false }
  match s.backDest part port with
  | some d => fillBack part port true true d 4 empty
  | none =>
    if !data then empty
    else
      match s.packetClass part 7 with
      | (some d, c, s') => packetLoop part c d (s.fab.sendQ.length + s.fab.relay.length + 1) { s := s', buf := [], data := false }
      | (none, _, s') => { s := s', buf := [], data := false }

/-! ### Flits (R331, R332) -/

/-- The link-layer field. -/
def linkField (q : FPort) (fseq : Nat) (nul : Bool) : List Byte :=
  bytesOf (fseq % 4096 + q.rack % 4096 * 2 ^ 12 + (if q.rrq then 2 ^ 24 else 0) + (if nul then 2 ^ 25 else 0)) 6

/-- The 256 bytes of a flit. -/
def flitBytes (q : FPort) (fseq : Nat) (nul : Bool) (payload : List Byte) : List Byte :=
  let b := padPayload payload ++ linkField q fseq nul
  let c := b ++ padTo 8 (Config.flitCrc b)
  c ++ padTo 6 (Config.flitFec c)

/-- A port sends a flit in this tick; `keep` holds its payload for replay, with `data` when it carries data. -/
def State.emit (s : State) (n fseq : Nat) (nul keep : Bool) (payload : List Byte) (data : Bool := false) : State :=
  let q := s.port n
  let w := s.time / 1024
  s.setPort n { q with
    sent := flitBytes q fseq nul payload, lastTick := s.time + 1
    injected := if q.window = w then q.injected + 1 else 1, window := w
    fseq := if keep then (q.fseq + 1) % 4096 else q.fseq
    replay := if keep then q.replay ++ [(q.fseq, payload, data)] else q.replay }

/-- A replayed flit: the next one after those replayed, until the newest (R332). -/
def State.emitReplay (s : State) (n from_ : Nat) : State :=
  let q := s.port n
  match q.replay.find? fun r => decide (r.1 = from_) with
  | none => s.setPort n { q with replaying := none }
  | some r =>
    let s := s.emit n r.1 false false r.2.1
    let q := s.port n
    s.setPort n { q with replaying := if (r.1 + 1) % 4096 = q.fseq then none else some ((r.1 + 1) % 4096) }

/-- Whether the next flit to replay carries data. -/
def FPort.replaysData (q : FPort) (from_ : Nat) : Bool := match q.replay.find? fun r => decide (r.1 = from_) with | some r => r.2.2 | none => false

/-- Whether a port may send one more flit: one in each tick, and within the fused bound and the rate of R419 and R427. -/
def State.mayEmit (s : State) (n : Nat) : Bool :=
  let q := s.port n
  decide (q.lastTick ≤ s.time) && (decide (q.window ≠ s.time / 1024) || decide (q.injected < min s.pkg.fwInject (1024 / 2 ^ s.pkg.rate)))

/-- Sends a filled flit, or one of padding only, which carries RACK and RRQ. -/
def Fill.send (f : Fill) (n : Nat) : State :=
  if f.buf.isEmpty then f.s.emit n (f.s.port n).fseq true false [] else f.s.emit n (f.s.port n).fseq false true f.buf f.data

/-- Whether no port of a higher number that faces the same destination has sent in this tick: the ports of a destination take its flits in
ascending number (R340). -/
def State.inTurn (s : State) (part n : Nat) (sl : Slot) (dest : Nat × Nat) : Bool :=
  (List.range 16).all fun m => !(decide (n < m) && (s.part part).pport.testBit m && !(s.port m).packet && decide ((s.port m).lastTick = s.time + 1) &&
    (match slotFace sl m with | some (a, b) => decide ((a, b / 8) = dest) | none => false))

/-- FLIT_SEND: what the port sends in this tick (R330, R339, R340, R345, R368, R431, R432). While a hold keeps the next flit to be replayed,
acknowledgements leave behind it (R431): they are replayed with it if the peer does not take them. -/
def execFlitSend (n : Nat) (s : State) : Out :=
  match s.portPart n with
  | none => .next s
  | some part =>
    let q := s.port n
    let p := s.part part
    if !s.mayEmit n || decide (16 ≤ n) || p.dark || decide (s.pkg.stage < 7) then .next s
    else if q.packet then
      let data := !s.packetHeld part && !q.switching && s.pkg.didv
      if !q.locked then .next (s.emit n q.fseq true false [])
      else
        match q.replaying with
        | some r =>
          if !(s.packetHeld part && q.replaysData r) then .next (s.emitReplay n r)
          else if 1024 ≤ q.kept then .next (s.emit n q.fseq true false [])
          else .next ((s.fillPacket part n false).send n)
        | none =>
          if 1024 ≤ q.kept then .next (s.emit n q.fseq true false [])
          else .next ((s.fillPacket part n data).send n)
    else
      match p.figure.bind fun f => slotAt f s.time with
      | none => .next s
      | some (start, sl) =>
        match slotFace sl n with
        | none => .next s
        | some (pkg, port) =>
          let dest := (pkg, port / 8)
          if q.slotAt ≠ start then .next s
          else if s.time < start + sl.guard then .next (if q.locked then s else s.emit n q.fseq true false [])
          else if !q.locked || !s.inTurn part n sl dest then .next s
          else
            match q.replaying with
            | some r =>
              if !(s.allowHeld part && q.replaysData r) then .next (s.emitReplay n r)
              else if 1024 ≤ q.kept then .next (s.emit n q.fseq true false [])
              else .next ((s.fillFlit part n dest false).send n)
            | none =>
              let key := destKey part dest
              let used := match s.fab.used.find? fun u => decide (u.1 = key) && decide (u.2.1 = start) with | some u => u.2.2 | none => 0
              let first := (List.range 16).find? fun m => p.pport.testBit m && !(s.port m).packet &&
                (match slotFace sl m with | some (a, b) => decide ((a, b / 8) = dest) | none => false)
              let allow := match first with | some m => fld (nth 0 sl.ports m) 16 16 | none => 0
              let data := !s.allowHeld part && !q.switching && s.pkg.didv && (decide (allow = 0) || decide (used < allow))
              if 1024 ≤ q.kept then .next (s.emit n q.fseq true false [])
              else
                let f := s.fillFlit part n dest data
                let s' := f.send n
                let mark := (key, start, used + 1) :: s'.fab.used.filter fun u => decide (u.1 ≠ key)
                .next (if f.data then s'.updFab fun fb => { fb with used := mark } else s')

end Sys2Proof.Machine
end

