-- ==== Sys2Proof/Machine/Arrive.lean ====
section
/-!
DEFINITION. What arrives from the fabric: flits received and reassembled (R331, R332, R340), packets performed at their
destination (R336, R346 to R349), acknowledgements and refusals at the sender (R336, R351), held and resent packets (R346),
drain markers (R287), and the change of a figure table, of a port's mode and of a key (R345, R367, R368, R431).
-/
namespace Sys2Proof.Machine

/-! ### Arrivals -/

/-- Where an arrival stands: received, in the loopback path from a send queue, or in it from the reverse direction (R337). -/
inductive Path where
  | received
  | loop (id : Nat)
  | loopBack
deriving DecidableEq, Repr

/-- Every packet that may be performed: those received, and those that the loopback path carries. -/
def State.arrivals (s : State) : List (Path × Arrival) :=
  (s.fab.arrived.map fun a => (Path.received, a)) ++
  (s.fab.sendQ.filterMap fun e =>
    match e.item with
    | .packet p => if e.pkg = s.pkg.domid ∧ e.sent = false ∧ s.entryHeld e = false then
        some (Path.loop e.id, { die := e.ddie, port := none, pkt := p, part := e.part, heldAt := none, came := s.time }) else none
    | .marker _ => none) ++
  (s.fab.back.filter fun a => decide (a.port = none) && decide (a.pkt.dpkg = s.pkg.domid)).map fun a =>
    (Path.loopBack, { a with die := a.pkt.ddie })

/-- An arrival leaves where it stands. -/
def State.takeArrival (s : State) (x : Path × Arrival) : State :=
  match x.1 with
  | .received => s.updFab fun f => { f with arrived := f.arrived.erase x.2 }
  | .loop id =>
    s.updFab fun f => { f with sendQ := upd (fun e => decide (e.id = id)) (fun e => { e with sent := true, notBefore := 0 }) f.sendQ }
  | .loopBack =>
    match takeFirst (fun b : Arrival => decide (b.port = none) && decide ({ b with die := b.pkt.ddie } = x.2)) s.fab.back with
    | some (_, r) => s.updFab fun f => { f with back := r }
    | none => s

/-- The number of the source queue of an arrival (R336). -/
def Arrival.srcQ (a : Arrival) : Nat := queueNo a.pkt.sdie a.pkt.spkg a.pkt.ddie a.pkt.cls
def State.nextRx (s : State) (a : Arrival) : Bool := decide (tget 0 s.fab.rxSeq a.srcQ = a.pkt.seq)
/-- The next SEQ after those packets that were discarded on arrival, which stay as empty packets of TYPE 0xF. -/
def skipSeq (q : Nat) (arrived : List Arrival) : Nat → Nat → Nat
  | 0, seq => seq
  | n + 1, seq =>
    if arrived.any fun b => decide (b.pkt.ty = 15) && decide (b.srcQ = q) && decide (b.pkt.seq = seq) then
      skipSeq q arrived n ((seq + 1) % 2 ^ 23)
    else seq
/-- The source queue goes on to its next SEQ. -/
def State.passSeq (s : State) (a : Arrival) : State :=
  let seq := skipSeq a.srcQ s.fab.arrived s.fab.arrived.length ((a.pkt.seq + 1) % 2 ^ 23)
  s.updFab fun f => { f with
    rxSeq := tset 0 f.rxSeq a.srcQ seq
    arrived := f.arrived.filter fun b => !(decide (b.pkt.ty = 15) && decide (b.srcQ = a.srcQ) && decide ((seq - b.pkt.seq + 2 ^ 23) % 2 ^ 23 < 2 ^ 22)) }

/-- A packet in the reverse direction of an arrival. -/
def Arrival.reply (a : Arrival) (ty : Nat) : Packet :=
  { ty, dpkg := a.pkt.spkg, ddie := a.pkt.sdie, spkg := a.pkt.dpkg, sdie := a.pkt.ddie, rly := false, enc := false,
    cls := a.pkt.cls, dlen := 0, seq := a.pkt.seq, addr := a.pkt.addr, aux := 0, mask := 0, ext := [], data := [] }
def State.sendBack (s : State) (a : Arrival) (p : Packet) : State :=
  s.updFab fun f => { f with back := f.back ++ [{ die := a.die, port := none, pkt := p, part := a.part, heldAt := none, came := s.time }] }
/-- An acknowledgement with a completion time (R336). -/
def State.ack (s : State) (a : Arrival) (g : Nat) : State := s.sendBack a { a.reply 7 with data := bytesOf g 8 }
/-- An answer with its completion time: in an acknowledgement's data, or behind an atomic's result (R334). -/
def Packet.withTime (p : Packet) (g : Nat) : Packet := if p.ty = 5 then { p with ext := bytesOf g 8 } else { p with data := bytesOf g 8 }
/-- The answer to a write, whose completion time the source queue keeps (R185); one to a page table whose old contents are in use waits for the
write's completion (R405). -/
def State.answer (s : State) (a : Arrival) (p : Packet) (g : Nat) (refs : List TabRef) : State :=
  let s := s.updFab fun f => { f with wrote := tset 0 f.wrote a.srcQ (max g (tget 0 f.wrote a.srcQ)) }
  if refs.isEmpty then s.sendBack a (p.withTime g)
  else s.updFab fun f => { f with late := f.late ++ [{ arr := a, pkt := p, g, refs }] }
/-- The answers that waited and whose writes are complete (R405). -/
def State.sendLate (s : State) : State :=
  let due := s.fab.late.filter fun x => s.tabDone x.refs
  due.foldl (fun s x => s.sendBack x.arr (x.pkt.withTime x.g)) (s.updFab fun f => { f with late := f.late.filter fun x => !s.tabDone x.refs })
/-- A refusal with its reason (R351). -/
def State.refuse (s : State) (a : Arrival) (reason : Nat) : State := s.sendBack a { a.reply 8 with aux := reason }

/-- An error record of a die's network unit for system software (R372). -/
def State.netError (s : State) (a : Arrival) (cls reason : Nat) : State :=
  s.unitRecord a.part { cls, handle := netHandle a.die, addr := a.pkt.addr, peer := 2 * a.pkt.spkg + a.pkt.sdie, reason, tick := s.time }

/-- How long an arrival is held: one round of the figure table, or HOLDT in packet mode (R346). -/
def State.holdFor (s : State) (a : Arrival) : Nat :=
  let p := s.part a.part
  match p.figure, a.port with
  | some f, some n => if s.portPacket n then p.holdt else f.round
  | some f, none => f.round
  | none, _ => p.holdt

/-- The hold of an arrival is over: it is refused and may not be performed any more (R346). -/
def State.holdOver (s : State) (a : Arrival) : Bool := match a.heldAt with | some t => decide (t + s.holdFor a ≤ s.time) | none => false

/-- The entry of the send queue that an arrival of the loopback path stands for. -/
def State.loopEnt (s : State) (a : Arrival) : Option SendEnt :=
  if a.pkt.spkg = s.pkg.domid then
    s.fab.sendQ.find? fun e => decide (e.pkg = a.pkt.dpkg) && decide (e.die = a.pkt.sdie) && (match e.item with | .packet k => decide (k = a.pkt) | .marker _ => false)
  else none

/-- Whether an own packet of a line follows everything of the line that it must follow: its earlier accesses and packets to the same bytes
(R52, R170). -/
def State.ownTurn (s : State) (a : Arrival) : Bool :=
  match s.loopEnt a with
  | some { issuer := some r, id, .. } =>
    let meets (p : Place) (n : Nat) : Bool := s.packetMeets a.die a.part a.pkt p n
    (s.flight.all fun b => !(b.open_ r && decide (b.id < id) && meets b.place b.size)) &&
    ((s.bankQ ++ s.waitQ).all fun q => !(decide (q.issuer = r) && decide (q.id < id) && q.isAccess && meets (.spad q.set q.off) q.size)) &&
    ((List.range 128).all fun i => !a.pkt.byteMask.testBit i ||
      match s.viewPeer a.die a.part (a.pkt.addr / 128 * 128) with
      | some q => !s.loopMeets r (q.plus i) 1 id
      | none => true)
  | _ => true

/-- A line whose own packet a slice performed sees the 128-byte line as it is now: its core's L1 copy, and what its running load instruction has
fetched of it (R169, R170). -/
def State.seen (s : State) (a : Arrival) (ln : Nat) : State :=
  match s.loopEnt a with
  | some { issuer := some r, .. } =>
    match s.line r with
    | some l => (s.refreshL1 l.core ln).updLine r fun l =>
        { l with fetched := l.fetched.map fun e => if e.1 = ln then (ln, s.devLine ln, s.badWords ln) else e }
    | none => s
  | _ => s

/-- Whether the package takes part in a packet's traffic: one whose time base is not locked takes none in its domain's (R17), and what has come
from another package waits until it is locked again. (DESIGN CHOICE, assumption 75.) -/
def State.takesPart (s : State) (a : Arrival) : Bool := s.pkg.tblock || decide (a.pkt.spkg = s.pkg.domid)

/-- A packet that may write waits until every write that an earlier packet of its source queue made here is complete: at the time base, and where a
page table was written at the translation buffers (R185, R405). (DEDUCED, assumption 111.) -/
def State.queueDone (s : State) (a : Arrival) : Bool :=
  !(decide (a.pkt.ty ≤ 1) || decide (a.pkt.ty = 4) || decide (a.pkt.ty = 6)) ||
    (decide (tget 0 s.fab.wrote a.srcQ ≤ s.time) && s.fab.late.all fun x => decide (x.arr.srcQ ≠ a.srcQ))

/-- Whether a packet of the send direction may be performed: it is the next of its source queue (R336), whose earlier writes are complete, its hold is
not over (R346), and in the loopback path what its line did before is done. -/
def State.packetTurn (s : State) (a : Arrival) : Bool := s.nextRx a && s.queueDone a && !s.holdOver a && s.ownTurn a

/-- Runs a packet's meaning on the n-th arrival when it has a type and the package takes part in its traffic; packets of the send direction wait
for their turn. -/
def onArrival (n : Nat) (ty : Nat → Bool) (ordered : Bool) (s : State) (f : State → Path × Arrival → State) : Out :=
  match s.arrivals[n]? with
  | none => .next s
  | some x => .next (if ty x.2.pkt.ty && s.takesPart x.2 && (!ordered || s.packetTurn x.2) then f s x else s)

/-! ### Addresses at the destination (R146, R399, R401, R406) -/

/-- The 128-byte line that a packet names, translated at its destination's die under PROOT; with PV = 0 every request is refused (R402). (DEDUCED, assumption 31.) -/
def State.destLine (s : State) (a : Arrival) (write : Bool) : Xl :=
  if !bit (s.part a.part).prlo 0 then .fault 0x07 else s.translate none a.die a.part true (a.pkt.addr / 128 * 128) write false

/-- A miss begins a walk; the packet waits. -/
def State.destWalk (s : State) (a : Arrival) (write : Bool) : State :=
  (s.startWalk none a.die a.part true (a.pkt.addr / 128 * 128) write false).2

/-- A destination fault: counted, and refused with reason 6 (R347, R408). -/
def State.destFault (s : State) (x : Path × Arrival) (cls : Nat) : State :=
  let s := ((s.takeArrival x).passSeq x.2).dropFault x.2.die x.2.part true x.2.pkt.addr
  (s.countFault x.2.part cls).refuse x.2 6

/-- The runs of consecutive bits of a mask: offset and length. -/
def maskRuns (mask : Nat) : List (Nat × Nat) :=
  (List.range 129).foldl (fun acc i =>
    if mask.testBit i && decide (i < 128) then
      match acc with
      | (o, n) :: r => if o + n = i then (o, n + 1) :: r else (i, 1) :: acc
      | [] => [(i, 1)]
    else acc) [] |>.reverse

/-- Granules of a window that a mask of bytes from an offset touches. -/
def maskGrans (off mask : Nat) : List Nat := ((maskRuns mask).map fun r => gransOf (off + r.1) r.2).flatten.eraseDups

/-- An arrival that finds its granule full is held; the hold is measured from its arrival (R346, R360). (DEDUCED, assumption 54.) -/
def State.hold (s : State) (x : Path × Arrival) : State :=
  if x.2.heldAt.isSome then s
  else
    match x.1 with
    | .received => s.updFab fun f => { f with arrived := f.arrived.map fun a => if a = x.2 then { a with heldAt := some a.came } else a }
    | _ => (s.takeArrival x).updFab fun f => { f with arrived := f.arrived ++ [{ x.2 with heldAt := some x.2.came }] }

/-! ### Writes (R336, R346, R347) -/

/-- Writes the bytes that a mask names of a line. -/
def State.writeRuns (s : State) (ca mask : Nat) (data : List Byte) : State :=
  (maskRuns mask).foldl (fun s r => s.devWrite none (ca + r.1) ((data.drop r.1).take r.2)) s

/-- What must hold of a scratchpad destination: `none` to go on, else the arrival's fate. -/
inductive SpadFate where
  | go (c : CSet)
  /-- requests stand before it in a bank (R150) -/
  | busy
  | hold
  | refuse (reason : Nat)

/-- Whether a set's window can be reached: its lines are resident, or it is being pre-empted; one that is placed or restored is not there yet
(R380, R392, R401). -/
def CSet.reached (c : CSet) : Bool := decide (c.phase = .resident) || decide (c.phase = .stopping)

/-- A write to a scratchpad aperture: held while its set is not resident or a granule is full, refused beyond the window or
at a barrier granule (R346, R347, R401). -/
def State.spadFate (s : State) (r : SetRef) (off mask : Nat) (engine : Bool) : SpadFate :=
  match s.cset r with
  | none => .hold
  | some c =>
    let gs := maskGrans off mask
    if !c.reached then .hold
    else if (maskRuns mask).any fun r => decide (c.win < off + r.1 + r.2) then .refuse 6
    else if gs.any c.isMark then .refuse 3
    else if gs.any fun g => s.bankBusy c (16 * g) then .busy
    else if engine && gs.any c.isFull then .hold
    else .go c

/-- WRITE and MASKED_WRITE (R405 for a page table's line). -/
def writeArrival (s : State) (x : Path × Arrival) : State :=
  let a := x.2
  match s.destLine a true with
  | .miss => s.destWalk a true
  | .fault c => s.destFault x c
  | .hit (.host h) _ =>
    let s := (s.takeArrival x).passSeq a
    (maskRuns a.pkt.mask).foldl (fun s r => { s with hostMem := writeBytes s.hostMem (h + r.1) ((a.pkt.data.drop r.1).take r.2) }) s
      |>.ack a s.time
  | .hit (.dev ca) _ =>
    if (s.part a.part).regionRefuses ca 4 0 none then ((s.takeArrival x).passSeq a).refuse a 2
    else ((((s.takeArrival x).passSeq a).writeRuns ca a.pkt.mask a.pkt.data).seen a (lineOf ca)).answer a (a.reply 7) (s.gwct ca) (s.tabRefs ca)
  | .hit (.spad r off) _ =>
    match s.spadFate r off a.pkt.mask true with
    | .busy => s
    | .hold => s.hold x
    | .refuse k => ((s.takeArrival x).passSeq a).refuse a k
    | .go _ =>
      let s := (s.takeArrival x).passSeq a
      ((maskRuns a.pkt.mask).foldl (fun s q => s.engineSpad r (off + q.1) ((a.pkt.data.drop q.1).take q.2)) s).ack a s.time

def execWrite (n : Nat) (s : State) : Out := onArrival n (fun t => decide (t = 0)) true s writeArrival
def execMaskedWrite (n : Nat) (s : State) : Out := onArrival n (fun t => decide (t = 1)) true s writeArrival

/-! ### Reads (R182, R336) -/

/-- A read completion enters the destination's queue for the requester, in the class of the request. The packet has no place for the
recorded time of R172 (R334): the loopback path alone carries it, in `at_`. -/
def State.sendCompletion (s : State) (a : Arrival) (data at_ : List Byte) : State :=
  let seq := tget 0 s.fab.seqs (queueNo a.die a.pkt.spkg a.pkt.sdie a.pkt.cls)
  let bytes := gatherMask a.pkt.mask 1 data
  let p : Packet := { a.reply 3 with seq := seq, mask := 2 ^ bytes.length - 1, data := bytes, ext := at_ }
  { (s.enqueue { die := a.die, pkg := a.pkt.spkg, ddie := a.pkt.sdie, cls := a.pkt.cls, item := .packet p, part := a.part,
                 held := none, issuer := none, id := s.nextId, ino := 0, sent := false, notBefore := 0 } p) with nextId := s.nextId + 1 }

def readArrival (s : State) (x : Path × Arrival) : State :=
  let a := x.2
  let done (data at_ : List Byte) : State := ((s.takeArrival x).passSeq a).sendCompletion a data at_
  match s.destLine a false with
  | .miss => s.destWalk a false
  | .fault c => s.destFault x c
  | .hit (.host h) _ => done (readBytes s.hostMem h 128) []
  | .hit (.dev ca) _ =>
    if (maskRuns a.pkt.mask).any fun r => s.badRead (ca + r.1) r.2 then
      (((maskRuns a.pkt.mask).foldl (fun s r => s.noteBad (ca + r.1) r.2) ((s.takeArrival x).passSeq a))).refuse a 6
    else (done (readBytes s.dev ca 128) (bytesOf (s.l2Rec (lineOf ca)).done 8)).seen a (lineOf ca)
  | .hit (.spad r off) _ =>
    match s.cset r with
    | none => s.hold x
    | some c =>
      if !c.reached then s.hold x
      else if ((maskRuns a.pkt.mask).any fun q => decide (c.win < off + q.1 + q.2)) || ((maskGrans off a.pkt.mask).any c.badGran.contains) then
        ((s.takeArrival x).passSeq a).refuse a 6
      else if (maskGrans off a.pkt.mask).any fun g => s.bankBusy c (16 * g) then s
      else done (readBytes c.spad off 128) []

def execReadRequest (n : Nat) (s : State) : Out := onArrival n (fun t => decide (t = 2)) true s readArrival

/-! ### Atomics (R267, R336) -/

/-- The wait of an atomic that comes by the loopback path. -/
def State.ownAtomic (s : State) (a : Arrival) : Option PeerWait :=
  if a.pkt.spkg = s.pkg.domid then
    s.fab.waits.find? fun w => decide (w.die = a.pkt.sdie) && decide (w.pkg = a.pkt.dpkg) && decide (w.ddie = a.pkt.ddie) &&
      decide (w.cls = a.pkt.cls) && decide (w.seq = a.pkt.seq)
  else none

/-- The type under which a peer atomic computes. The packet names its operation and width (R333) and no signedness: the value
of MIN and MAX under a type that it does not carry is open, except in the loopback path, where the line's request is known. (DESIGN CHOICE, assumption 53.) -/
def State.atomTy (s : State) (a : Arrival) (op : AtomOp) (dbl : Bool) : Ty :=
  match (s.ownAtomic a).bind fun w => match w.kind with | .atomic _ t => some t | _ => none with
  | some t => t
  | none =>
    match op with
    | .fadd | .fmin | .fmax => if dbl then .f64 else .f32
    | .min | .max => if Config.freeBit s.freeCtr then (if dbl then .s64 else .s32) else (if dbl then .n64 else .n32)
    | _ => if dbl then .n64 else .n32

def atomicArrival (s : State) (x : Path × Arrival) : State :=
  let a := x.2
  let wd := bitsAt a.pkt.aux 4 2
  let size := 2 ^ wd
  match AtomOp.ofCode (bitsAt a.pkt.aux 0 4) with
  | none => ((s.takeArrival x).passSeq a).refuse a 7
  | some op =>
    let off := a.pkt.addr % 128
    if wd < 2 ∨ off % size ≠ 0 then ((s.takeArrival x).passSeq a).refuse a 7
    else
      let ty := s.atomTy a op (decide (wd = 3))
      let b := leNat (a.pkt.ext.take 8) % 2 ^ (8 * size)
      let d := leNat (a.pkt.ext.drop 8) % 2 ^ (8 * size)
      let result (s : State) (old g : Nat) : State := s.sendBack a { a.reply 5 with data := bytesOf old 16, ext := bytesOf g 8 }
      let go (s : State) : State := { (s.takeArrival x).passSeq a with freeCtr := s.freeCtr + 1 }
      match s.destLine a true with
      | .miss => s.destWalk a true
      | .fault c => s.destFault x c
      | .hit (.host h) _ =>
        let old := readLe s.hostMem (h + off) size
        let s' := go s
        result (match atomNew op ty old b d with
          | some v => { s' with hostMem := writeBytes s'.hostMem (h + off) (bytesOf v size) }
          | none => s') old s.time
      | .hit (.dev ca) _ =>
        if (s.part a.part).regionRefuses ca 4 0 none then ((s.takeArrival x).passSeq a).refuse a 2
        else if s.badRead (ca + off) size then (((s.takeArrival x).passSeq a).noteBad (ca + off) size).refuse a 6
        else
          let old := readLe s.dev (ca + off) size
          let acq := match s.ownAtomic a with | some w => w.acq | none => false
          match atomNew op ty old b d with
          | some v =>
            (((go s).devWrite none (ca + off) (bytesOf v size)).seen a (lineOf ca)).answer a { a.reply 5 with data := bytesOf old 16 } (s.gwct ca) (s.tabRefs ca)
          | none => result ((go s).seen a (lineOf ca)) old (if acq then max s.time (s.l2Rec (lineOf ca)).done else s.time)
      | .hit (.spad r o) _ =>
        match s.spadFate r (o + off) (2 ^ size - 1) false with
        | .busy => s
        | .hold => s.hold x
        | .refuse k => ((s.takeArrival x).passSeq a).refuse a k
        | .go c =>
          if c.badGran.contains ((o + off) / 16) then ((s.takeArrival x).passSeq a).refuse a 6
          else
            let old := c.read (o + off) size
            match atomNew op ty old b d with
            | some v => result ((go s).updSet r fun c => c.write (o + off) (bytesOf v size)) old s.time
            | none => result (go s) old s.time

def execAtomic (n : Nat) (s : State) : Out := onArrival n (fun t => decide (t = 4)) true s atomicArrival

end Sys2Proof.Machine
end

