-- ==== Sys2Proof/Machine/Settle.lean ====
section
/-!
DEFINITION. The sender's side of the fabric and its changes: acknowledgements, results, completions and refusals (R336, R351),
reductions at their summing point (R348, R349), holds and resends (R346), flits received (R332, R340), drain markers (R287),
figure-table changes (R345, R431), port modes (R368), keys (R367).
-/
namespace Sys2Proof.Machine

/-! ### What an answer settles -/

/-- The outgoing entry and the wait that an answer names. -/
def State.entryOf (s : State) (a : Arrival) : Option SendEnt :=
  s.fab.sendQ.find? fun e => decide (e.die = a.pkt.ddie) && decide (e.pkg = a.pkt.spkg) && decide (e.ddie = a.pkt.sdie) &&
    decide (e.cls = a.pkt.cls) && (match e.item with | .packet p => decide (p.seq = a.pkt.seq) | .marker _ => false)
def State.waitOf (s : State) (a : Arrival) : Option PeerWait :=
  s.fab.waits.find? fun w => decide (w.die = a.pkt.ddie) && decide (w.pkg = a.pkt.spkg) && decide (w.ddie = a.pkt.sdie) &&
    decide (w.cls = a.pkt.cls) && decide (w.seq = a.pkt.seq)

/-- An entry that is settled leaves its queue; so do the read completions sent before it, which the destination has passed. -/
def State.dropEntry (s : State) (e : SendEnt) : State :=
  let seqOf (x : SendEnt) : Nat := match x.item with | .packet p => p.seq | .marker _ => 0
  s.updFab fun f => { f with sendQ := f.sendQ.filter fun x => !(decide (x.id = e.id) ||
    (x.isSentRead && decide (queueNo x.die x.pkg x.ddie x.cls = queueNo e.die e.pkg e.ddie e.cls) &&
      decide ((seqOf e + 2 ^ 23 - seqOf x) % 2 ^ 23 < 2 ^ 22))) }

/-- A wait ends with a completion time: contributions keep it for QFENCE (R185). (DESIGN CHOICE, assumption 52.) -/
def State.endWait (s : State) (w : PeerWait) (g : Nat) : State :=
  let old (x : PeerWait) : Bool := match x.done with | some h => decide (h + Config.margin ≤ s.time) | none => false
  let s := s.updFab fun f => { f with
    waits := (if w.red then upd (fun (x : PeerWait) => decide (x.id = w.id)) (fun x => { x with done := some g }) f.waits
      else f.waits.filter fun (x : PeerWait) => decide (x.id ≠ w.id)).filter fun x => !old x }
  (s.updLineAll w.issuer fun l => { l with hx := max l.hx g }).gridG w.issuer.grid (g + Config.margin)

/-- A value reaches a register of the line, unless the register no longer waits for it. -/
def State.peerDeliver (s : State) (w : PeerWait) (j d size v : Nat) : State :=
  s.updLineAll w.issuer fun l => if l.pend.contains (j, d) then l.deliver j d size w.sx v else l

/-- The place of an entry in its send queue (R372, QENT). (DEDUCED, assumption 79.) -/
def State.sendIndex (s : State) (id : Nat) : Nat :=
  match s.fab.sendQ.find? fun e => decide (e.id = id) with
  | some e => ((s.fab.sendQ.takeWhile fun x => decide (x.id ≠ id)).filter fun x => !x.isSentRead &&
      decide (queueNo x.die x.pkg x.ddie x.cls = queueNo e.die e.pkg e.ddie e.cls)).length
  | none => 0

/-- The error record of a peer access (R351, R372). -/
def State.peerRec (s : State) (w : PeerWait) (cls reason : Nat) : Rec :=
  { cls, addr := w.va, queue := 5, qent := s.sendIndex w.id % 32, elem := w.elem, peer := 2 * w.pkg + w.ddie, reason, tick := s.time, uid := w.id }

/-- A register of the line receives no value; its consumer takes the fault (R55). -/
def State.peerFail (s : State) (w : PeerWait) (r : Rec) : State :=
  let ds := w.dsts.filterMap fun d => d.2.1.map fun n => (d.1, regs (decide (d.2.2.2 = 8)) n)
  let rs := (ds.map fun d => d.2.map fun n => (d.1, n)).flatten
  s.updLineAll w.issuer fun l => { l with
    pend := l.pend.filter fun p => !rs.contains p
    failed := l.failed ++ (rs.filter fun p => l.pend.contains p).map fun p => (p.1, p.2, r) }

/-- A wait ends without an effect: a read or an atomic with a destination fails its registers; an access without one, a read or atomic whose
destination is x0 among them, queues an error record for its line (R55, R351). -/
def State.failWait (s : State) (w : PeerWait) (cls reason : Nat) (both : Bool) : State :=
  let r := s.peerRec w cls reason
  let s := s.updFab fun f => { f with waits := f.waits.filter fun x => decide (x.id ≠ w.id) }
  let hasDst := w.dsts.any fun d => match d.2.1 with | some n => decide (n ≠ 0) | none => false
  let s := if hasDst then s.peerFail w r else s
  let s := if !hasDst || (both && decide (w.kind ≠ .load)) then s.queueErr w.issuer (if w.red then 5 else 7) r else s
  s.reap

/-- ACKNOWLEDGEMENT (R336, R261): the completion time reaches the line. -/
def ackArrival (s : State) (x : Path × Arrival) : State :=
  let s' := s.takeArrival x
  match s.entryOf x.2 with
  | none => s'
  | some e =>
    let s' := s'.dropEntry e
    match s.waitOf x.2 with
    | none => s'
    | some w => (s'.endWait w (leNat (x.2.pkt.data.take 8))).reap

def execAcknowledgement (n : Nat) (s : State) : Out := onArrival n (fun t => decide (t = 7)) false s ackArrival

/-- ATOMIC_RESULT: the old value reaches d, and the completion time the line (R334, R336). -/
def resultArrival (s : State) (x : Path × Arrival) : State :=
  let s' := s.takeArrival x
  match s.entryOf x.2 with
  | none => s'
  | some e =>
    let s' := s'.dropEntry e
    match s.waitOf x.2 with
    | none => s'
    | some w =>
      let old := leNat (x.2.pkt.data.take 8)
      ((w.dsts.foldl (fun s d => match d.2.1 with | some r => s.peerDeliver w d.1 r d.2.2.2 old | none => s) s').endWait w
        (leNat (x.2.pkt.ext.take 8))).reap

def execAtomicResult (n : Nat) (s : State) : Out := onArrival n (fun t => decide (t = 5)) false s resultArrival

/-- The oldest read of a source queue that has no answer. -/
def State.readOf (s : State) (a : Arrival) : Option PeerWait :=
  s.fab.waits.find? fun w => decide (w.kind = .load) && decide (w.die = a.pkt.ddie) && decide (w.pkg = a.pkt.spkg) &&
    decide (w.ddie = a.pkt.sdie) && decide (w.cls = a.pkt.cls)

/-- READ_COMPLETION: the bytes of the oldest read of the queue reach their registers. A packet from another package carries no completion
time (R334), so the time to which its acquire raises hx (R176) is a free value; the loopback path gives it. -/
def completionArrival (s : State) (x : Path × Arrival) : State :=
  let s' := (s.takeArrival x).passSeq x.2
  match s.readOf x.2 with
  | none => s'
  | some w =>
    let mask := w.dsts.foldl (fun m d => m ||| ((2 ^ d.2.2.2 - 1) * 2 ^ d.2.2.1)) 0
    let data := scatterMask mask 1 x.2.pkt.data
    let s' := w.dsts.foldl (fun s d => match d.2.1 with
      | some r => s.peerDeliver w d.1 r d.2.2.2 (leNat ((data.drop d.2.2.1).take d.2.2.2))
      | none => s) s'
    let s' := s'.updFab fun f => { f with
      waits := f.waits.filter fun y => decide (y.id ≠ w.id)
      sendQ := f.sendQ.filter fun e => decide (e.id ≠ w.id) }
    let s' := if !w.acq then s'
      else if x.2.pkt.spkg = s.pkg.domid ∧ x.2.pkt.ext ≠ [] then s'.updLineAll w.issuer fun l => { l with hx := max l.hx (leNat x.2.pkt.ext) }
      else { s'.updLineAll w.issuer (fun l => { l with hx := max l.hx (Config.freeNat s.freeCtr) }) with freeCtr := s.freeCtr + 1 }
    s'.reap

def execReadCompletion (n : Nat) (s : State) : Out := onArrival n (fun t => decide (t = 3)) true s completionArrival

/-! ### Refusals and resends (R346, R351) -/

/-- The record class of a refusal's reason (R351). -/
def refusalClass (reason : Nat) : Nat :=
  match reason with
  | 2 => 0x09 | 3 => 0x0A | 5 => 0x0F | 6 => 0x07 | 9 => 0x08 | _ => 0x10

/-- The tick from which a refused packet may be sent again: the next round, or HOLDT later in packet mode (R346). -/
def State.resendAt (s : State) (e : SendEnt) : Nat :=
  match (s.part e.part).figure with
  | some f =>
    if e.pkg = s.pkg.domid ∨ s.figureReaches e.part e.pkg (some e.ddie) ∨ s.packetReaches e.part e.pkg = false then
      f.epoch + ((s.time - f.epoch) / f.round + 1) * f.round
    else s.time + (s.part e.part).holdt
  | none => s.time + (s.part e.part).holdt

/-- REFUSAL. One that names no packet of the queue, by its SEQ and address, tells of a reverse-direction packet that a relay could not
forward: it is told to system software. (DESIGN CHOICE, assumption 80.) -/
def refusalArrival (s : State) (x : Path × Arrival) : State :=
  let s' := s.takeArrival x
  let reason := bitsAt x.2.pkt.aux 0 4
  match (s.entryOf x.2).filter fun e => match e.item with | .packet p => decide (p.addr = x.2.pkt.addr) | .marker _ => false with
  | none => if reason = 5 then s'.netError x.2 0x0F 5 else s'
  | some e =>
    if reason = 1 ∨ reason = 4 then
      let at_ := s.resendAt e
      let mark (y : SendEnt) : SendEnt := if y.id = e.id ∧ y.sent then { y with notBefore := max 1 at_ } else y
      s'.updFab fun f => { f with sendQ := f.sendQ.map mark }
    else
      (match s.waitOf x.2 with
      | none => s'
      | some w => s'.failWait w (refusalClass reason) (if 2 ≤ reason ∧ reason ≤ 9 then reason else 7) false).dropEntry e

def execRefusal (n : Nat) (s : State) : Out := onArrival n (fun t => decide (t = 8)) false s refusalArrival

/-- RESEND: a refused packet stands again in its queue, at its place, and its bytes count again as unsent (R358). (DESIGN CHOICE, assumption 105.) -/
def execResend (id : Nat) (s : State) : Out :=
  let again (y : SendEnt) : SendEnt :=
    if y.id = id ∧ y.sent ∧ 0 < y.notBefore ∧ y.notBefore ≤ s.time then { y with sent := false, notBefore := 0 } else y
  .next (s.updFab fun f => { f with sendQ := f.sendQ.map again })

/-- HOLD_EXPIRY: the held packet and every packet held behind it are refused with reason 1. -/
def execHoldExpiry (n : Nat) (s : State) : Out :=
  match s.fab.arrived[n]? with
  | none => .next s
  | some a =>
    match a.heldAt with
    | none => .next s
    | some _ =>
      if !s.holdOver a || !s.takesPart a then .next s
      else
        let behind (b : Arrival) : Bool := decide (b.srcQ = a.srcQ) && decide (b.pkt.ty ≤ 6) && decide (b.pkt.ty ≠ 5) &&
          decide ((b.pkt.seq - a.pkt.seq + 2 ^ 23) % 2 ^ 23 < 2 ^ 22)
        let out := s.fab.arrived.filter behind
        .next (out.foldl (fun s b => s.refuse b 1) (s.updFab fun f => { f with arrived := f.arrived.filter fun b => !behind b }))

/-- RESERVED_TYPE_PACKET (R333): discarded, refused with reason 7, and told to system software. -/
def execReservedTypePacket (n : Nat) (s : State) : Out :=
  onArrival n (fun t => decide (9 ≤ t) && decide (t ≤ 14)) true s fun s x =>
    (((s.takeArrival x).passSeq x.2).refuse x.2 7).netError x.2 0x10 7

/-- DRAIN_MARKER_ACK (R287): a marker is acknowledged when every send ahead of it in its queue has been acknowledged or
cancelled. -/
def execDrainMarkerAck (id : Nat) (s : State) : Out :=
  match s.fab.sendQ.find? fun e => decide (e.id = id) with
  | some e =>
    let ahead := s.fab.sendQ.takeWhile fun x => decide (x.id ≠ id)
    let inQueue (x : SendEnt) : Bool := !x.isSentRead && decide (queueNo x.die x.pkg x.ddie x.cls = queueNo e.die e.pkg e.ddie e.cls) &&
      (match x.item with | .packet _ => true | .marker _ => false)
    match e.item with
    | .marker _ => .next (if ahead.any inQueue then s else s.updFab fun f => { f with sendQ := f.sendQ.filter fun x => decide (x.id ≠ id) })
    | .packet _ => .next s
  | none => .next s

/-! ### Reductions (R348, R349) -/

/-- An arrival that stands for a packet known only by its queue and SEQ. -/
def arrivalOf (s : State) (die part q seq addr : Nat) : Arrival :=
  { die, port := none, part, heldAt := none,
    pkt := { ty := 6, dpkg := s.pkg.domid, ddie := q / 3 % 2, spkg := q / 6 % 4096, sdie := q / 6 / 4096, rly := false, enc := false,
             cls := q % 3, dlen := 0, seq, addr, aux := 0, mask := 0, ext := [], data := [] } }

/-- The sum of an element (R144, R286). -/
def RedElem.sum (e : RedElem) : Nat :=
  let ws := (List.range e.nrank).map fun r => match e.got.find? fun g => decide (g.1 = r) with | some g => g.2 | none => 0
  if e.ty = 8 then (reduceF32 e.d0 e.d1 ws).z else (ws.foldl (· + ·) 0).toNat

def RedFrom.is (f : RedFrom) (q seq : Nat) : Bool := decide (f.q = q) && decide (f.seq = seq)

/-- The contributions of a packet leave every open element; an element that nothing is left of closes. -/
def dropContrib (q seq : Nat) (es : List RedElem) : List RedElem :=
  (es.map fun e => match e.from_.findIdx? fun f => f.is q seq with
    | some i => { e with from_ := e.from_.eraseIdx i, got := e.got.eraseIdx i }
    | none => e).filter fun e => !e.got.isEmpty

/-- Elements complete: their sums are written, and each packet whose elements are all complete is acknowledged with the latest
of their completion times. -/
def State.closeElems (s : State) (place : Place) (closed : List RedElem) : State :=
  closed.foldl (fun s e =>
    let bs := bytesOf e.sum 4
    let o := e.addr % 128
    let w : State × Nat := match place with
      | .dev ca => (s.devWrite none (ca + o) bs, s.gwct (ca + o))
      | .host h => ({ s with hostMem := writeBytes s.hostMem (h + o) bs }, s.time)
      | .spad r off => (s.engineSpad r (off + o) bs, s.time)
    let refs := match place with | .dev ca => s.tabRefs ca | _ => []
    e.from_.foldl (fun s f =>
      let g := max f.g w.2
      if s.fab.reds.any fun x => x.from_.any fun y => y.is f.q f.seq then
        let raise (x : RedElem) : RedElem := { x with from_ := x.from_.map fun y => if y.is f.q f.seq then { y with g := max y.g g } else y }
        s.updFab fun fb => { fb with reds := fb.reds.map raise }
      else let a := arrivalOf s e.die e.part f.q f.seq f.addr; s.answer a (a.reply 7) g refs)
      (w.1.updFab fun fb => { fb with reds := fb.reds.filter fun x => !(decide (x.part = e.part) && decide (x.die = e.die) && decide (x.addr = e.addr)) })) s

/-- REDUCTION_CONTRIBUTION (R348): recorded by rank; when an element has them all, summed and written once. One that disagrees with an open
element closes it, whatever else is wrong with it. One for which the buffer has no room
is refused and keeps its SEQ to come, at which it is sent again (R346, R349). -/
def redArrival (s : State) (x : Path × Arrival) : State :=
  let a := x.2
  let p := a.pkt
  let w (i : Nat) : Word := BitVec.ofNat 32 (leNat ((p.ext.drop (4 * i)).take 4))
  let rank := fld (w 2) 0 12
  let nrank := fld (w 2) 12 12 + 1
  let ty := (w 3).toNat
  let taken := (s.takeArrival x).passSeq a
  let idx := (List.range 32).filter fun i => p.mask.testBit i
  let addrs := idx.map fun i => p.addr / 128 * 128 + 4 * i
  let mine (e : RedElem) : Bool := decide (e.part = a.part) && decide (e.die = a.die) && addrs.contains e.addr
  let open_ := s.fab.reds.filter mine
  let bad := open_.filter fun e => !(decide (e.nrank = nrank) && decide (e.ty = ty) && (decide (ty ≠ 8) || (decide (e.d0 = w 0) && decide (e.d1 = w 1))))
  let accept (place : Place) : State :=
    if !bad.isEmpty then
      let out := (bad.map fun e => e.from_.map fun f => (f.q, f.seq, f.addr)).flatten.eraseDups
      let s := out.foldl (fun s f =>
        (s.updFab fun fb => { fb with reds := dropContrib f.1 f.2.1 fb.reds }).refuse (arrivalOf s a.die a.part f.1 f.2.1 f.2.2) 8) taken
      s.refuse a 8
    else if ty ≠ 0 ∧ ty ≠ 8 then taken.refuse a 7
    else if nrank ≤ rank then taken.refuse a 8
    else if open_.any fun e => e.got.any fun g => decide (g.1 = rank) then s.hold x
    else if 65536 < (s.fab.reds.filter fun e => decide (e.die = a.die)).length + (idx.length - open_.length) then (s.takeArrival x).refuse a 4
    else
      let word (addr : Nat) : Word := BitVec.ofNat 32 (leNat ((p.data.drop (addr % 128)).take 4))
      let join (e : RedElem) : RedElem := if mine e then { e with got := e.got ++ [(rank, word e.addr)], from_ := e.from_ ++ [{ q := a.srcQ, seq := p.seq, addr := p.addr, g := 0 }] } else e
      let fresh := (addrs.filter fun ad => !(open_.any fun e => decide (e.addr = ad))).map fun ad =>
        ({ die := a.die, part := a.part, addr := ad, nrank, ty, d0 := w 0, d1 := w 1, got := [(rank, word ad)], from_ := [{ q := a.srcQ, seq := p.seq, addr := p.addr, g := 0 }] } : RedElem)
      let s := taken.updFab fun fb => { fb with reds := fb.reds.map join ++ fresh }
      s.closeElems place (s.fab.reds.filter fun e => mine e && decide (e.got.length = e.nrank))
  match s.destLine a true with
  | .miss => s.destWalk a true
  | .fault c => s.destFault x c
  | .hit (.host h) _ => accept (.host h)
  | .hit (.dev ca) _ =>
    if (s.part a.part).regionRefuses ca 4 0 none then taken.refuse a 2
    else accept (.dev ca)
  | .hit (.spad r off) _ =>
    match s.spadFate r off p.byteMask true with
    | .busy => s
    | .hold => s.hold x
    | .refuse k => taken.refuse a k
    | .go _ => accept (.spad r off)

def execReductionContribution (n : Nat) (s : State) : Out := onArrival n (fun t => decide (t = 6)) true s redArrival

/-! ### Flits received (R331, R332, R340, R343, R350) -/

/-- Bytes that relayed packets take in a die's relay buffer (R343). -/
def State.relayLoad (s : State) (die : Nat) : Nat :=
  ((s.fab.relay.filter fun a => decide (a.die = die)).map fun a => 16 + a.pkt.data.length).foldl (· + ·) 0

/-- The keys under which a packet from a peer may verify: the one bound, and those before it while R367 accepts them; with each, whether it
is an old one. -/
def State.openKeys (s : State) (part peer : Nat) : List (Bool × KeyEnt) :=
  match (s.part part).binds.find? fun b => decide (b.peer = peer) with
  | none => []
  | some b =>
    let key (old : Bool) (h : Nat) : Option (Bool × KeyEnt) := ((s.part part).keys.find? fun k => decide (k.handle = h)).map fun k => (old, k)
    (key false b.handle).toList ++ b.olds.filterMap fun o =>
      if (match o.2 with | some t => decide (s.time ≤ t) | none => true) then key true o.1 else none

/-- How far ahead of the next count a receiver looks for a packet's counter. -/
def ctrWindow : Nat := 64

/-- The counts under which a packet may verify: those that no packet has verified under, then the next ones. A header names none: packets of
one source pass by several ports and relays, and one whose tag fails takes its count with it. (DESIGN CHOICE, assumption 50.) -/
def KeyCtr.candidates (c : KeyCtr) : List Nat := c.missed ++ (List.range ctrWindow).map (c.next + ·)

/-- A packet has verified under a count. -/
def KeyCtr.seen (c : KeyCtr) (n : Nat) : KeyCtr :=
  if n < c.next then { c with missed := c.missed.filter fun m => decide (m ≠ n) }
  else { c with next := n + 1, missed := c.missed ++ (List.range (n - c.next)).map (c.next + ·) }

/-- Opens an encrypted body: the packet, and the state with the counter moved and the change of key noted; `keep` is for how long packets under
older keys are still accepted from then on (R367). -/
def State.openBody (s : State) (part keep : Nat) (h body : List Byte) : List (Bool × KeyEnt) → Option (Packet × State)
  | [] => none
  | (old, k) :: r =>
    let p := Packet.ofWire h []
    let ctr := s.keyCtr k.in_ p.sdie true
    let n := body.length - 16
    match ctr.candidates.findSome? fun c => (gcmOpen k.in_ (gcmIv p c) h (body.take n) (body.drop n)).map fun plain => (c, plain) with
    | none => s.openBody part keep h body r
    | some (c, plain) =>
      let note (b : Binding) : Binding :=
        if b.peer = 2 * p.spkg + p.sdie ∧ old = false then { b with olds := b.olds.map fun o => (o.1, some (o.2.getD (s.time + keep))) } else b
      some (Packet.ofWire h plain, (s.setKeyCtr (ctr.seen c)).updPart part fun q => { q with binds := q.binds.map note })

/-- A packet discarded on arrival: the queue passes its SEQ. -/
def State.discardSeq (s : State) (a : Arrival) : State :=
  if a.pkt.ty = 5 ∨ a.pkt.ty = 7 ∨ a.pkt.ty = 8 then s
  else if s.nextRx a then s.passSeq a
  else s.updFab fun f => { f with arrived := f.arrived ++ [{ a with pkt := { a.pkt with ty := 15 } }] }

/-- Whether a destination is faced by a port, so that a relay may forward to it (R343). -/
def State.relays (s : State) (a : Arrival) : Bool := s.faced a.part a.pkt.dpkg a.pkt.ddie

/-- A whole packet received by a port. A relay keeps a reverse-direction packet also when its buffer is full. A package that the host let proceed
without lock takes no part in the domain's traffic and discards it (R421); at another whose time base is not locked what arrives waits
(`State.takesPart`). A packet with ENC = 0 is accepted from a peer that has a key, too. (DESIGN CHOICE, assumptions 75, 80, 93.) -/
def State.packetIn (s : State) (part port : Nat) (h body : List Byte) : State :=
  let p := Packet.ofWire h []
  let a : Arrival := { die := port / 8, port := some port, pkt := p, part, heldAt := none, came := s.time }
  if !s.pkg.didv || (s.pkg.free && !s.pkg.tblock) then s
  else if p.spkg = s.pkg.domid then
    (s.updFab fun f => { f with back := f.back ++ [{ a with pkt := { a.reply 8 with aux := 7 } }] }).netError a 0x10 7
  else if p.dpkg ≠ s.pkg.domid then
    if !s.relays a then s.refuse a 5
    else if !isReverse p.ty && decide ((s.part part).rbuf * 2 ^ 26 < s.relayLoad (port / 8) + 16 + body.length) then s.refuse a 4
    else s.updFab fun f => { f with relay := f.relay ++ [{ a with pkt := { p with data := body, mask := 0, ext := [] } }] }
  else if p.enc then
    let keep := 2 * (match (s.part part).figure with | some f => if s.portPacket port then (s.part part).holdt else f.round | none => (s.part part).holdt)
    match s.openBody part keep h body (s.openKeys part (2 * p.spkg + p.sdie)) with
    | some (q, s') => s'.updFab fun f => { f with arrived := f.arrived ++ [{ a with die := q.ddie, pkt := q }] }
    | none => ((s.discardSeq a).refuse a 9).netError a 0x08 9
  else
    let q := Packet.ofWire h body
    s.updFab fun f => { f with arrived := f.arrived ++ [{ a with die := q.ddie, pkt := q }] }

/-- Takes whole packets from a stream's bytes; padding ends the flit. -/
def packetsIn (part port : Nat) : Nat → List Byte → State → State × List Byte
  | 0, bs, s => (s, bs)
  | n + 1, bs, s =>
    match bs with
    | [] => (s, [])
    | b :: _ =>
      if b.toNat % 16 = 15 then (s, [])
      else if bs.length < 16 then (s, bs)
      else
        let h := leNat (bs.take 16)
        let size := wireSize (h % 16) (bitsAt h 33 8) (h.testBit 31)
        if bs.length < size then (s, bs)
        else packetsIn part port n (bs.drop size) (s.packetIn part port (bs.take 16) ((bs.take size).drop 16))

/-- The stream that a port receives now: that of the package which it faces for its die, or in packet mode that of the die. (DEDUCED, assumption 51.) -/
def State.streamKey (s : State) (part port : Nat) : Nat :=
  match (if s.portPacket port then none else (s.port port).face) with
  | some (pkg, _) => destKey part (pkg, port / 8)
  | none => 2 ^ 20 + 2 * part + port / 8

def State.stream (s : State) (key : Nat) : RxStream :=
  (s.fab.rx.find? fun r => decide (r.key = key)).getD { key, rest := [], later := [] }
def State.setStream (s : State) (r : RxStream) : State := s.updFab fun f => { f with rx := r :: f.rx.filter fun y => decide (y.key ≠ r.key) }

def RxFlit.is (x : RxFlit) (port fseq : Nat) : Bool := decide (x.port = port) && decide (x.fseq = fseq)

/-- A flit goes behind those of a stream that came before its tick, or in it by ports of lower numbers (R340). -/
def placeFlit (x : RxFlit) : List RxFlit → List RxFlit
  | [] => [x]
  | y :: r => if x.tick < y.tick ∨ (y.tick = x.tick ∧ x.port < y.port) then x :: y :: r else y :: placeFlit x r

/-- A flit of a port, with this FSEQ, which came in a tick and is to be replayed: it keeps its place in the stream (R340). -/
def RxStream.miss (r : RxStream) (port fseq tick : Nat) : RxStream :=
  if r.later.any fun x => x.is port fseq then r else { r with later := placeFlit { port, fseq, tick, bytes := none } r.later }

/-- The FSEQ that a damaged flit of a port is taken to have had: the one after the last of the port's flits whose place is kept, while the port
waits for a replay, and else the next. (DESIGN CHOICE, assumption 51.) -/
def RxStream.damaged (r : RxStream) (port : Nat) (q : FPort) : Nat :=
  match (if q.rrq then (r.later.filter fun x => decide (x.port = port)).getLast? else none) with
  | some x => (x.fseq + 1) % 4096
  | none => (q.rack + 1) % 4096

/-- A NUL flit tells the next FSEQ: no flit from that on has been sent, so no place is kept for one. -/
def RxStream.noneFrom (r : RxStream) (port fseq : Nat) : RxStream :=
  { r with later := r.later.filter fun x => !(decide (x.port = port) && x.bytes.isNone && decide ((x.fseq + 4096 - fseq) % 4096 < 2048)) }

/-- The flits of a port from the one after RACK up to the `n`-th after it, which came now, are to be replayed: at most one came in a tick. -/
def RxStream.missUpTo (r : RxStream) (port rack n now : Nat) : RxStream :=
  (List.range n).foldl (fun r k => r.miss port ((rack + 1 + k) % 4096) (now - (n - 1 - k))) r

/-- A flit's payload takes its place in the stream: where it was missed, or at the end. -/
def RxStream.place (r : RxStream) (port fseq now : Nat) (bs : List Byte) : RxStream :=
  if r.later.any fun x => x.is port fseq then
    { r with later := upd (fun x => x.is port fseq) (fun x => { x with bytes := some bs }) r.later }
  else { r with later := placeFlit { port, fseq, tick := now, bytes := some bs } r.later }

/-- Whether a flit of a figure-mode port may still be preceded by one that comes in the same tick by a port of a lower number which faces the
same destination (R340). -/
def State.mayPrecede (s : State) (x : RxFlit) (key : Nat) : Bool :=
  decide (s.time ≤ x.tick) && !s.portPacket x.port &&
    (List.range x.port).any fun m => !s.portPacket m && (match s.portPart m with | some part => decide (s.streamKey part m = key) | none => false)

/-- Takes packets from the payload areas at the head of a stream, up to one that is to be replayed, or, but at the `end_` of a tick, one that
another flit of the tick may precede. A flit of acknowledgements alone continues no split packet. (DESIGN CHOICE, assumption 51.) -/
def drainStream (end_ : Bool) : Nat → RxStream → State → State
  | 0, r, s => s.setStream r
  | n + 1, r, s =>
    match r.later with
    | x :: more =>
      match x.bytes, s.portPart x.port with
      | some bs, some part =>
        if !end_ && s.mayPrecede x r.key then s.setStream r
        else if !r.rest.isEmpty && acksOnly 16 bs then drainStream end_ n { r with later := more } (packetsIn part x.port 32 bs s).1
        else
          let t := packetsIn part x.port 32 (r.rest ++ bs) s
          drainStream end_ n { r with rest := t.2, later := more } t.1
      | _, _ => s.setStream r
    | [] => s.setStream r

/-- The end of a tick: no flit of the tick is to come any more, and the streams are taken as far as they go. -/
def State.endTick (s : State) : State :=
  (s.fab.rx.filter fun r => !r.later.isEmpty).foldl (fun s r => drainStream true r.later.length r s) s

/-- Whether a port may lock now: in the guard of its slot, or at any time in packet mode or without a table (R432). -/
def State.mayLock (s : State) (part port : Nat) : Bool :=
  s.portPacket port ||
  match (s.part part).figure.bind fun f => slotAt f s.time with
  | some (start, sl) => decide ((s.port port).slotAt = start) && decide (s.time < start + sl.guard)
  | none => true

/-- Flits up to an acknowledged FSEQ leave the replay buffer. -/
def ackReplay (rack : Nat) (r : List (Nat × List Byte × Bool)) : List (Nat × List Byte × Bool) :=
  if r.any fun x => decide (x.1 = rack) then (r.dropWhile fun x => decide (x.1 ≠ rack)).drop 1 else r

/-- FLIT_RECEIVE. -/
def execFlitReceive (port : Nat) (bytes : List Byte) (s : State) : Out :=
  match s.portPart port with
  | none => .next s
  | some part =>
    if decide (16 ≤ port) || (s.part part).dark || decide (s.pkg.stage < 7) then .next s
    else
      let c := Config.fecCorrect (padTo 256 bytes)
      let b := padTo 256 c.1
      let s := s.updPkg fun p => c.2.foldl (fun p i => p.count (Counter.fec port (i % 4))) p
      let q := s.port port
      let link := leNat ((b.drop 236).take 6)
      if decide ((b.drop 242).take 8 ≠ padTo 8 (Config.flitCrc (b.take 242))) || decide (bitsAt link 26 22 ≠ 0) then
        let r := s.stream (s.streamKey part port)
        let s := if q.locked then s.setStream (r.miss port (r.damaged port q) s.time) else s
        .next ((s.setPort port { q with rrq := q.locked, nulls := if q.nulls < 9 then 0 else q.nulls }).updPkg fun p => p.count (Counter.crc port))
      else
        let fseq := bitsAt link 0 12
        let replay := ackReplay (bitsAt link 12 12) q.replay
        let q := { q with replay := replay, replaying := if link.testBit 24 then replay.head?.map Prod.fst else q.replaying }
        if link.testBit 25 then
          if q.locked then
            let ahead := (fseq + 4095 - q.rack) % 4096
            let r := ((s.stream (s.streamKey part port)).noneFrom port fseq).missUpTo port q.rack (if ahead < 2048 then ahead else 0) s.time
            .next (drainStream false r.later.length r (s.setPort port { q with rrq := decide (0 < ahead) && decide (ahead < 2048) }))
          else if decide (9 ≤ q.nulls) || !s.mayLock part port then .next (s.setPort port q)
          else if 7 ≤ q.nulls then
            .next ((s.setPort port { q with locked := true, nulls := 0 }).updPkg fun p => p.count (Counter.relock port))
          else .next (s.setPort port { q with nulls := q.nulls + 1 })
        else if !q.locked then .next (s.setPort port { q with nulls := if q.nulls < 9 then 0 else q.nulls })
        else if fseq ≠ (q.rack + 1) % 4096 then
          let ahead := (fseq + 4095 - q.rack) % 4096
          let s := if ahead < 2048 then
              s.setStream ((s.stream (s.streamKey part port)).missUpTo port q.rack (ahead + 1) s.time)
            else s
          .next (s.setPort port { q with rrq := q.rrq || decide (ahead < 2048) })
        else
          let s := s.setPort port { q with rack := fseq, rrq := false }
          let r := (s.stream (s.streamKey part port)).place port fseq s.time (b.take 236)
          .next (drainStream false r.later.length r s)

/-! ### Changes of table, mode and key (R345, R367, R368, R431) -/

/-- The streams of a partition whose destination no figure-mode port faces any more end: what was split is sent again, whole, and bytes of a
packet that was split on its way in are dropped. -/
def State.endStreams (s : State) (part : Nat) : State :=
  let gone (dest : Nat × Nat) : Bool := !s.figureReaches part dest.1 (some dest.2)
  let cut := s.fab.tx.filter fun t => decide (t.part = part) && gone t.dest
  let ids := cut.map TxRest.id
  let whole := cut.filterMap TxRest.whole
  let mine (a : Arrival) : Bool := decide (a.pkt.spkg = s.pkg.domid)
  s.updFab fun f => { f with
    back := whole.filter mine ++ f.back
    relay := whole.filter (fun a => !mine a) ++ f.relay
    tx := f.tx.filter fun t => !(decide (t.part = part) && gone t.dest)
    sendQ := upd (fun e => decide (e.id ≠ 0) && ids.contains e.id) (fun e => { e with sent := false }) f.sendQ
    rx := f.rx.filter fun r => !(decide (r.key / 8192 = part) && !s.figureReaches part (r.key % 8192 / 2) none) }

/-- Packets of a partition for destinations that are no longer reachable (R344) are cancelled; what was sent and is not acknowledged counts as
cancelled too (R345, R431); relayed ones that can no longer be forwarded are refused with reason 5 (R343). -/
def State.cancelUnreachable (s : State) (part : Nat) : State :=
  let s := s.endStreams part
  let gone (pkg die : Nat) : Bool := !s.routed part pkg die
  let es := s.fab.sendQ.filter fun e => decide (e.part = part) && gone e.pkg e.ddie &&
    (match e.item with | .packet _ => true | .marker _ => false)
  let ids := es.map SendEnt.id
  let ws := s.fab.waits.filter fun w => ids.contains w.id && w.done.isNone
  let stuck (a : Arrival) : Bool := decide (a.part = part) && !s.relays a
  let s := ws.foldl (fun s w => s.failWait w 0x0F 0 true) s
  let s := s.updFab fun f => { f with
    sendQ := f.sendQ.filter fun e => !ids.contains e.id
    back := f.back.filter fun a => !(decide (a.part = part) && a.port.isNone && gone a.pkt.dpkg a.pkt.ddie)
    relay := f.relay.filter fun a => !stuck a }
  (s.fab.relay.filter stuck).foldl (fun s a => s.refuse a 5) s

/-- HOLD_POINT: from E − H every allowance is held. -/
def State.holdPoint (s : State) (part : Nat) : State :=
  match (s.part part).commit with
  | some c => if c.epoch ≤ s.time + c.hold then s.updPart part fun p => { p with held := true } else s
  | none => s
def execHoldPoint (part : Nat) (s : State) : Out := .next (s.holdPoint part)

/-- DARK_PHASE: from E − Dk nothing is sent and nothing received counts. -/
def State.darkPhase (s : State) (part : Nat) : State :=
  match (s.part part).commit with
  | some c => if 0 < c.hold ∧ c.epoch ≤ s.time + min c.hold 20000 then s.updPart part fun p => { p with held := true, dark := true } else s
  | none => s
def execDarkPhase (part : Nat) (s : State) : Out := .next (s.darkPhase part)

/-- TABLE_EPOCH: the committed table takes effect; allowances stay held until its first usable tick (R345). -/
def State.tableEpoch (s : State) (part : Nat) : State :=
  match (s.part part).commit with
  | some c =>
    if c.epoch ≤ s.time then
      (s.updPart part fun p => { p with figure := some c, commit := none, held := true, dark := false }).cancelUnreachable part
    else s
  | none => s
def execTableEpoch (part : Nat) (s : State) : Out := .next (s.tableEpoch part)

/-- The first usable tick of the table in force has come: allowances are free, unless the hold point of the next table has come too. -/
def State.holdEnd (s : State) (part : Nat) : State :=
  let p := s.part part
  let next := match p.commit with | some c => decide (c.epoch ≤ s.time + c.hold) | none => false
  match p.figure with
  | some f => if p.held && !next && decide (f.epoch + (f.slots.head?.map Slot.guard).getD 0 ≤ s.time) then s.updPart part fun p => { p with held := false } else s
  | none => s

/-- The next tick at which a figure table of a partition begins a slot, ends a guard or takes effect. -/
def Partition.nextTick (p : Partition) (now : Nat) : Option Nat :=
  let ts := (match p.commit with | some c => [c.epoch] | none => []) ++
    (match p.figure with
      | some f => f.epoch :: (match slotAt f now with | some (start, sl) => [start + sl.guard, start + sl.len] | none => [])
      | none => [])
  leastBy id (ts.filter fun t => decide (now < t))
def State.nextTick (s : State) : Option Nat := leastBy id ((List.range 8).filterMap fun p => (s.part p).nextTick s.time)

/-- What the passing of time alone brings about in the fabric: hold points, epochs, slots that begin, guards that end. -/
def State.tableTimes (s : State) : State :=
  let s := (List.range 8).foldl (fun s p => ((((s.holdPoint p).darkPhase p).tableEpoch p).holdEnd p).slotStart p) s
  (List.range 16).foldl State.missSlot s

/-- Time goes on to a tick, by way of every tick at which a figure table does something; `n` bounds how many those are. -/
def State.passTo (target : Nat) : Nat → State → State
  | 0, s => { s with time := target }.tableTimes
  | n + 1, s =>
    match s.nextTick with
    | some t => if t < target then State.passTo target n { s with time := t }.tableTimes else { s with time := target }.tableTimes
    | none => { s with time := target }.tableTimes

/-- PORT_MODE_SWITCH (R368). (DEDUCED, assumption 55.) -/
def execPortModeSwitch (port : Nat) (s : State) : Out :=
  let q := s.port port
  match s.portPart port with
  | none => .next s
  | some part =>
    if q.switching && decide (q.kept = 0) && s.atRound part then
      .next ((s.setPort port { q.turnTo none with packet := q.asked, switching := false, locked := false, nulls := 0 }).cancelUnreachable part)
    else .next s

/-- KEY_SWITCH (R367): on figure-mode ports at a round boundary, on packet-mode ports once every packet sent to the peer under the old key has
been acknowledged. -/
def execKeySwitch (part peer : Nat) (s : State) : Out :=
  let sent (new : Nat) : Bool := s.fab.sendQ.any fun e => decide (e.part = part) && decide (2 * e.pkg + e.ddie = peer) && e.sent && !e.isSentRead &&
    decide (e.key ≠ new)
  let switch (b : Binding) : Binding :=
    if b.peer = peer then
      { b with sendHandle := if s.atRound part then b.handle else b.sendHandle, pktHandle := if sent b.handle then b.pktHandle else b.handle }
    else b
  .next (s.updPart part fun p => { p with binds := p.binds.map switch })

end Sys2Proof.Machine
end

