-- ==== Sys2Proof/Machine/Sched.lean ====
section
/-!
DEFINITION. The scheduler (17_scheduling.md): reading launch packets, dependences, start times, placement and displacement,
the saving and restoring of set images (R379, R380), completion records and signals.
-/
namespace Sys2Proof.Machine

/-! ### The launch packet (R388) -/

abbrev Pkt := Vector Word 32

def pkWord (p : Pkt) (i : Nat) : Word := p.getD i 0
def pkDouble (p : Pkt) (i : Nat) : Nat := (pkWord p i).toNat + (pkWord p (i + 1)).toNat * 2 ^ 32
def pkType (p : Pkt) : Nat := fld (pkWord p 0) 0 4
def pkPrio (p : Pkt) : Nat := fld (pkWord p 0) 4 3
def pkRsvc (p : Pkt) : Bool := bit (pkWord p 0) 11
def pkPers (p : Pkt) : Bool := bit (pkWord p 0) 12
def pkSer (p : Pkt) : Bool := bit (pkWord p 0) 13
def pkPolicy (p : Pkt) : Nat := fld (pkWord p 0) 14 2
def pkWidth (p : Pkt) : Nat := 8 * 2 ^ fld (pkWord p 0) 16 2
def pkHall (p : Pkt) : Nat := 2 ^ fld (pkWord p 0) 18 2
def pkLines (p : Pkt) : Nat := fld (pkWord p 0) 20 4 + 1
def pkPorts (p : Pkt) : Nat := fld (pkWord p 0) 24 5
def pkXregs (p : Pkt) : Nat := fld (pkWord p 1) 0 5 + 1
def pkKregs (p : Pkt) : Nat := fld (pkWord p 1) 5 4 + 1
def pkWin (p : Pkt) : Nat := (fld (pkWord p 1) 9 4 + 1) * 0x10000
def pkDepop (p : Pkt) : Nat := fld (pkWord p 1) 13 2
def pkGtag (p : Pkt) : Nat := fld (pkWord p 1) 16 16
def pkCount (p : Pkt) : Nat := (pkWord p 2).toNat + 1
def pkStart (p : Pkt) : Nat := pkDouble p 10
def pkCmp (p : Pkt) : Nat := pkDouble p 12
def pkSig (p : Pkt) : Nat := pkDouble p 14

/-- The code of R397 that refuses a packet, zero when none does (R388, R396). (DEDUCED, assumption 41.) -/
def pktErr (p : Pkt) : Nat :=
  if pkType p = 2 then
    (if (pkDepop p ≠ 0 ∧ pkDouble p 6 % 8 ≠ 0) ∨ pkCmp p % 64 ≠ 0 ∨ pkSig p % 8 ≠ 0 then 2 else 0)
  else if pkType p ≠ 1 then 1
  else if fld (pkWord p 0) 29 3 ≠ 0 ∨ bit (pkWord p 1) 15 ∨ fld (pkWord p 5) 25 7 ≠ 0 ∨ pkPolicy p = 3 ∨ 16 < pkPorts p ∨
      pkXregs p < 8 ∨ 4096 < pkWidth p * pkXregs p ∨ 128 < pkLines p * pkPorts p ∨ pkCount p % pkHall p ≠ 0 ∨
      pkDouble p 6 % 8 ≠ 0 ∨ pkCmp p % 64 ≠ 0 ∨ pkSig p % 8 ≠ 0 then 2
  else if fld (pkWord p 3) 0 2 ≠ 0 ∨ fld (pkWord p 4) 0 12 ≠ 0 then 4
  else 0

/-! ### The scheduler's own accesses: through the shared TLB of die 0 (R406) -/

inductive SXl where
  | ok (p : Place)
  | walk (s : State)
  | fault (cls : Nat)

/-- A translation for the scheduler; a miss starts a walk. Its writes are checked against the regions too, and the scheduler is none of the
engines that a region names (R192, R406): a refused write counts as a fault of its address (DESIGN CHOICE, assumption 71). -/
def State.schedXl (s : State) (part va : Nat) (write : Bool) : SXl :=
  if 2 ^ 57 ≤ va then .fault 0x04
  else
    match s.translate none 0 part false va write false with
    | .miss => .walk (s.startWalk none 0 part false va write false).2
    | .hit (.dev ca) _ => if write && (s.part part).regionRefuses ca 6 0 none then .fault 0x09 else .ok (.dev ca)
    | .hit (.host a) _ => .ok (.host a)
    | .hit (.spad ..) _ => .fault 0x08
    | .fault c => .fault c

/-- A fault of the scheduler's access: counted when it is one of translation or protection, and gone from the fault table, since no line is
trapped on it (R402, R408). -/
def State.schedFault (s : State) (part va cls : Nat) : State := (s.dropFault 0 part false va).countFault part cls

/-- The table lines that a store of the scheduler changes while their old contents are in use (R405). -/
def State.schedRefs (s : State) : Place → List TabRef
  | .dev ca => s.tabRefs ca
  | _ => []

/-- Uncorrectable words that the scheduler meets are counted (R411, R429). -/
def State.schedNote (s : State) (p : Place) (n : Nat) : State := match p with | .dev ca => s.noteBad ca n | _ => s

def State.schedRead (s : State) (p : Place) (n : Nat) : List Byte :=
  match p with
  | .dev ca => readBytes s.dev ca n
  | .host a => readBytes s.hostMem a n
  | .spad .. => []

/-- A device-scope store of the scheduler, with its completion time. -/
def State.schedWrite (s : State) (p : Place) (bs : List Byte) : State × Nat :=
  match p with
  | .dev ca => (s.devWrite none ca bs, s.gwct ca)
  | .host a => ({ s with hostMem := writeBytes s.hostMem a bs }, s.time)
  | .spad .. => (s, s.time)

/-! ### Where a set fits (R38, R39, R44, R71, R148, R392) -/

/-- Resident lines and register words of each lane of a core. -/
def State.laneUse (s : State) (core : Nat) : List (Nat × Nat) :=
  let ls := s.lines.filter fun (l : Line) => decide (l.core = core)
  (List.range 64).map fun lane =>
    let here := ls.filter fun (l : Line) => decide (l.lane = lane)
    (here.length, (here.map fun (l : Line) => l.width * l.xregs).foldl (· + ·) 0)

/-- The lanes of `n` more lines of `w` words each: the lane that holds the fewest lines of the set, the lowest such lane (R392,
step 7). `acc` holds the lanes chosen so far, last first. -/
def chooseLanes (use : List (Nat × Nat)) (w : Nat) : Nat → List Nat → Option (List Nat)
  | 0, acc => some acc.reverse
  | n + 1, acc =>
    let mine (lane : Nat) : Nat := acc.count lane
    let ok (lane : Nat) : Bool :=
      let u := nth (8, 0) use lane
      decide (u.1 + mine lane < 8) && decide (u.2 + (mine lane + 1) * w ≤ 4096)
    let best := (List.range 64).foldl (fun (b : Option Nat) lane =>
      if !ok lane then b else match b with | none => some lane | some m => if mine lane < mine m then some lane else b) none
    match best with
    | some lane => chooseLanes use w n (lane :: acc)
    | none => none

/-- The lanes that a set of a packet's shape with `n` lines takes on a core, when it fits there. -/
def State.fitCore (s : State) (p : Pkt) (n core : Nat) : Option (List Nat) :=
  let here := s.sets.filter fun (c : CSet) => decide (c.core = core)
  let ports := ((s.lines.filter fun (l : Line) => decide (l.core = core)).map Line.nports).foldl (· + ·) 0
  if 16 ≤ here.length ∨ 0x100000 < (here.map CSet.win).foldl (· + ·) 0 + pkWin p ∨ 128 < ports + n * pkPorts p then none
  else chooseLanes (s.laneUse core) (pkWidth p * pkXregs p) n []

/-- Rows and columns of the block of a hall (R44). -/
def hallShape (h : Nat) : Nat × Nat := if h = 8 then (2, 4) else if h = 4 then (2, 2) else if h = 2 then (1, 2) else (1, 1)

/-- The blocks of a die for a hall, in the order of their origins; each lists its cores in member order (R44). -/
def hallBlocks (die h : Nat) : List (List Nat) :=
  let sh := hallShape h
  ((List.range 80).filter fun o => decide (o / 10 + sh.1 ≤ 8) && decide (o % 10 + sh.2 ≤ 10) &&
      (decide (h ≠ 8) || decide (o / 10 % 2 = 0))).map fun o =>
    (List.range h).map fun m => die * 80 + (o / 10 + m / sh.2) * 10 + (o % 10 + m % sh.2)

/-- Whether a partition's grid may use a core: owned, and reserved exactly when the grid is persistent (R392, step 1). -/
def Partition.eligible (p : Partition) (pers : Bool) (core : Nat) : Bool :=
  p.ownsCore core && (bit (p.cres.getD (core / 32) 0) (core % 32) == pers)

/-- The lowest block of a die where the members of a hall fit, each given with its count of lines: member, core and lanes of each. -/
def State.findBlock (s : State) (part : Nat) (p : Pkt) (die : Nat) (members : List (Nat × Nat)) : Option (List (Nat × Nat × List Nat)) :=
  (hallBlocks die (pkHall p)).findSome? fun cores =>
    members.mapM fun m =>
      let core := nth 0 cores m.1
      if (s.part part).eligible (pkPers p) core then (s.fitCore p m.2 core).map fun ls => (m.1, core, ls) else none

/-- The members of a new hall. -/
def newMembers (p : Pkt) : List (Nat × Nat) := (List.range (pkHall p)).map fun m => (m, pkLines p)

/-- The lowest residency slot of a lane that no line holds (R35). -/
def State.freeSlot (s : State) (core lane : Nat) : Nat :=
  ((List.range 8).find? fun n => !s.lines.any fun m => decide (m.core = core) && decide (m.lane = lane) && decide (m.slot = n)).getD 0

/-- Lines become resident, one after another in the same cycle: each takes the lowest slot of its lane that no resident line holds, and its
age is now (R35); a lane that held no resident line forgets what issued last (R34). `done` are those that have their slots. A line that
is placed and not yet resident keeps a slot number of its own until then, which names nothing. -/
def seatLines (age : Nat) : List LineRef → List LineRef → State → State
  | [], _, s => s
  | r :: rs, done, s =>
    match s.line r with
    | none => seatLines age rs done s
    | some l =>
      let here := s.lines.filter fun m => decide (m.ref ≠ r) && decide (m.core = l.core) && decide (m.lane = l.lane) && (s.isIn m || done.contains m.ref)
      let slot := ((List.range 8).find? fun n => !here.any fun m => decide (m.slot = n)).getD l.slot
      let lanes := if here.any fun m => decide (m.status ≠ .ended) then s.lanes
        else s.lanes.map fun m => if m.core = l.core ∧ m.lane = l.lane then { m with last := 7, lastRef := none, mid := false } else m
      seatLines age rs (r :: done) { s.updLine r fun l => { l with slot, age } with lanes }

/-- A new set and its lines take their core, slots and lanes, a set the lowest slot that no set of the core which has not ended holds (R365); a copy of the dependence's line in the core's L1, which may be older than what the acquire of its grid read, goes (R169, R391); code is fetched anew on a core that held no set of the grid (R35, R407). -/
def State.enterSet (s : State) (c : CSet) (ls : List Line) (core : Nat) (lanes : List Nat) : State :=
  let slot := ((List.range 16).find? fun n => !s.sets.any fun d => decide (d.core = core) && decide (d.slot = n) && decide (d.phase ≠ .ended)).getD 0
  let icache := if s.sets.any fun d => decide (d.core = core) && decide (d.ref.grid = c.ref.grid) && decide (d.phase ≠ .ended) then s.icache
    else s.icache.filter fun e => decide (e.core ≠ core)
  let dep := (s.grid c.ref.grid).bind Grid.depLine
  let l1 := s.l1.filter fun e => !(decide (e.core = core) && decide (some e.line = dep))
  let s := { s with sets := s.sets ++ [{ c with core, slot }], icache, l1 }
  (ls.zip lanes).foldl (fun s x => { s with lines := s.lines ++ [{ x.1 with core, lane := x.2, slot := s.freeSlot core x.2 }] }) s

/-- The lines of a new set (R389). -/
def Grid.newLine (g : Grid) (set line : Nat) : Line :=
  let p := g.pkt
  let ks : Vector Word 16 := Vector.ofFn fun i : Fin 16 => if 2 ≤ i.val ∧ i.val < pkKregs p then pkWord p (16 + i.val) else 0
  { Line.launch { grid := g.id, set, line } (pkWidth p) (pkXregs p) (pkKregs p) with
    part := g.part, pl := g.sup, nports := pkPorts p, gtag := pkGtag p, pc := pkWord p 3, k := ks,
    lmode := BitVec.ofNat 32 (pkPolicy p * 0x100000), hd := g.depG }

/-- A new set (R58, R148). -/
def Grid.newSet (g : Grid) (first m at_ : Nat) : CSet :=
  { CSet.launch { grid := g.id, set := first + m } 0 (pkWin g.pkt) (pkLines g.pkt) with
    part := g.part, hall := first, hsize := pkHall g.pkt, phase := .placed at_ }

/-- The next pending hall of a grid takes its cores. -/
def State.putHall (s : State) (g : Grid) (first at_ : Nat) (spots : List (Nat × Nat × List Nat)) : State :=
  spots.foldl (fun s x =>
    s.enterSet (g.newSet first x.1 at_) ((List.range (pkLines g.pkt)).map fun i => g.newLine (first + x.1) i) x.2.1 x.2.2) s

/-- Ticks of core cycles at the present clock (R392, R427). -/
def State.cycles (s : State) (n : Nat) : Nat := (n * 20 + s.pkg.clks - 1) / s.pkg.clks

/-- The tick of a die's next opportunity: 16 cycles after its last placement (R392). -/
def State.nextPlace (s : State) (die : Nat) : Nat :=
  let last := s.lastPlace.getD die 0
  if last = 0 then s.time else max s.time (last + s.cycles 16)

/-- Where the halls of a co-resident packet take their places, from index `first` on: `n` halls, each in an opportunity of its own, in which die 0
decides first (R392). -/
def State.planAll (s : State) (g : Grid) : Nat → Nat → Option (List (Nat × List (Nat × Nat × List Nat)))
  | 0, _ => some []
  | n + 1, first =>
    let members := newMembers g.pkt
    let early := if s.nextPlace 0 ≤ s.nextPlace 1 then 0 else 1
    let put (die : Nat) (spots : List (Nat × Nat × List Nat)) : State :=
      { s.putHall g first (s.nextPlace die + s.cycles 64) spots with lastPlace := s.lastPlace.setIfInBounds die (s.nextPlace die) }
    match s.findBlock g.part g.pkt early members with
    | some spots => ((put early spots).planAll g n (first + pkHall g.pkt)).map ((early, spots) :: ·)
    | none =>
      match s.findBlock g.part g.pkt (1 - early) members with
      | some spots => ((put (1 - early) spots).planAll g n (first + pkHall g.pkt)).map ((1 - early, spots) :: ·)
      | none => none

/-- Whether every set of a packet could be co-resident, were its partition's eligible cores idle (R392); 160 cores hold at most
2,560 sets. The places are those that the dispatcher's own order gives (step 5), and not any others that would fit. (DESIGN CHOICE, assumption 98.) -/
def State.couldFit (s : State) (g : Grid) : Bool :=
  decide (g.count ≤ 2560) && ({ s with sets := [], lines := [] }.planAll g (g.count / pkHall g.pkt) 0).isSome

/-! ### Becoming dispatchable (R390, R391) -/

/-- The queue's previous grid lets the next packet go: all its sets placed, and complete under SER. -/
def State.prevDone (s : State) (r : QueueRegs) (ser : Bool) : Bool :=
  match r.prev.bind s.grid with
  | none => true
  | some g =>
    match g.state with
    | .dispatchable => decide (r.prevCount ≤ g.next) && !ser
    | .abandoned => !ser
    | .waiting => false
    | _ => true

/-- A waiting grid becomes dispatchable when nothing holds it, at the later of its START and the tick from which nothing else held it (R398); a
co-resident packet that could never fit is refused. (DEDUCED, assumption 42.) -/
def State.dispatchOne (s : State) (g : Grid) : State :=
  let r := s.queue g.queue
  let since := g.free.getD s.time
  if !(g.depMet && s.prevDone r (pkSer g.pkt)) then s
  else if s.time < pkStart g.pkt then s.updGrid g.id fun x => { x with free := some since }
  else
    if pkRsvc g.pkt && !s.couldFit g then
      (s.setQueue g.queue (r.stop 3)).updGrid g.id fun x => { x with state := .refused, errc := 3 }
    else
      (s.setQueue g.queue { r with prev := some g.id, prevCount := g.count }).updGrid g.id fun x =>
        { x with state := .dispatchable, dispTick := max (pkStart g.pkt) since }

/-- Every waiting grid is looked at again, in each step that can have changed what holds it. -/
def State.dispatch (s : State) : State :=
  (s.grids.filter fun (g : Grid) => decide (g.state = .waiting)).foldl State.dispatchOne s

/-- START_TIMESTAMP: the time base has reached the START of the queue's packet. -/
def execStartTimestamp (q : Nat) (s : State) : Out :=
  .next ((s.grids.filter fun (g : Grid) => decide (g.queue = q) && decide (g.state = .waiting)).foldl State.dispatchOne s)

/-! ### Reading a packet (R390, R397) -/

/-- A grid made of a packet; its priority is at most PMAX (R388). -/
def State.newGrid (s : State) (q : Nat) (r : QueueRegs) (p : Pkt) : Grid :=
  { id := s.nextId, part := r.qpart, queue := q, sup := r.sup,
    pkt := p.setIfInBounds 0 (putBits (pkWord p 0) 4 3 (min (pkPrio p) r.pmax)), state := .waiting, errc := 0,
    count := pkCount p, next := 0, ended := 0, killed := 0, tread := s.time, tfirst := 0, dispTick := 0, lastG := 0,
    depMet := decide (pkDepop p = 0), depG := 0, images := [] }

/-- A packet read: HEAD advances, and it is refused, held as a signal packet, or entered into the grid table. -/
def State.takePacket (s : State) (q : Nat) (p : Pkt) : State :=
  let r := s.queue q
  let r := { r with
    head := r.head + 1
    prevCount := match r.prev.bind s.grid with | some g => g.count | none => 0 }
  let g := s.newGrid q r p
  let code := pktErr p
  if code ≠ 0 then
    { (s.setQueue q (r.stop code)) with grids := s.grids ++ [{ g with state := .refused, errc := code }], nextId := s.nextId + 1 }
  else if pkType p = 2 then
    s.setQueue q { r with sigPkt := some p, sigRead := s.time, sigDep := decide (pkDepop p = 0), pollAt := 0 }
  else ({ (s.setQueue q { r with pollAt := 0 }) with grids := s.grids ++ [g], nextId := s.nextId + 1 }).dispatch

/-- Whether a queue may read its head packet now. -/
def State.mayRead (s : State) (q : Nat) : Bool :=
  let r := s.queue q
  decide (q < 1024) && s.pkg.ready && (s.part r.qpart).pen && r.qen && !r.err && decide (r.head ≠ r.tail) && decide (r.tailG ≤ s.time) && s.tabDone r.tailT &&
  r.sigPkt.isNone && decide (r.sigG ≤ s.time) && s.tabDone r.sigT && !(s.grids.any fun g => decide (g.queue = q) && decide (g.state = .waiting)) &&
  decide ((s.grids.filter fun (g : Grid) => decide (g.state ≠ .refused)).length < 256)

def execPacketRead (q : Nat) (s : State) : Out :=
  let r := s.queue q
  if !s.mayRead q then .next s
  else
    let a := fld r.qbhi 0 25 * 2 ^ 32 + r.qblo.toNat + 128 * (r.head.toNat % 2 ^ r.qsz)
    let pl := if r.qloc then s.schedXl r.qpart a false else .ok (.host a)
    match pl with
    | .walk s => .next s
    | .fault c => .next ((s.schedFault r.qpart a c).setQueue q (r.stop 7))
    | .ok p =>
      if (match p with | .dev ca => s.badRead ca 128 | _ => false) then .next ((s.schedNote p 128).setQueue q (r.stop 7))
      else
        let bs := s.schedRead p 128
        .next (s.takePacket q (Vector.ofFn fun i : Fin 32 => BitVec.ofNat 32 (leNat ((bs.drop (4 * i.val)).take 4))))

/-! ### Dependences (R391) -/

/-- The condition of DEPOP on a word. -/
def depHolds (op v want : Nat) : Bool :=
  if op = 1 then decide (want ≤ v) else if op = 2 then decide (v = want) else if op = 3 then decide (v ≠ want) else true

/-- The packet of a queue whose dependence is not yet met: the signal packet, or the packet of the waiting grid. -/
def State.depPkt (s : State) (q : Nat) : Option Pkt :=
  match (s.queue q).sigPkt with
  | some p => if (s.queue q).sigDep then none else some p
  | none => (s.grids.find? fun g => decide (g.queue = q) && decide (g.state = .waiting) && !g.depMet).map Grid.pkt

/-- Changes the grid of a queue that waits for its dependence. -/
def State.updWaiting (s : State) (q : Nat) (f : Grid → Grid) : State :=
  { s with grids := upd (fun g => decide (g.queue = q) && decide (g.state = .waiting) && !g.depMet) f s.grids }

/-- A value of the dependence word, read with the recorded time `at_`: when the condition holds it is latched (R391), the read being an
acquire for every set of the grid. A signal packet has no grid that would keep the time. (DESIGN CHOICE, assumption 109.) -/
def State.depSee (s : State) (q v at_ : Nat) : State :=
  match s.depPkt q with
  | none => s
  | some p =>
    if !depHolds (pkDepop p) v (pkDouble p 8) then s
    else
      let r := { s.queue q with watch := none }
      match r.sigPkt with
      | some _ => s.setQueue q { r with sigDep := true }
      | none => (s.setQueue q r).updWaiting q fun x => { x with depMet := true, depG := at_, depLine := (s.queue q).watch.map lineOf }

/-- Reads the dependence of the queue's packet when it lies in the named memory; a translation fault refuses the packet. A word of device
memory is watched from then on. -/
def depRead (host : Bool) (q : Nat) (s : State) : State :=
  let r := s.queue q
  match s.depPkt q with
  | none => s
  | some p =>
    match s.schedXl r.qpart (pkDouble p 6) false with
    | .walk s => s
    | .fault c =>
      let s := (s.schedFault r.qpart (pkDouble p 6) c).setQueue q ({ r with sigPkt := none, watch := none }.stop 5)
      match r.sigPkt with
      | some _ =>
        { s with grids := s.grids ++ [{ s.newGrid q r p with state := .refused, errc := 5, tread := r.sigRead }], nextId := s.nextId + 1 }
      | none => s.updWaiting q fun x => { x with state := .refused, errc := 5 }
    | .ok pl =>
      let isHost := match pl with | .host _ => true | _ => false
      if isHost ≠ host ∨ (host ∧ s.time < r.pollAt) then s
      else
        let s := s.setQueue q { r with pollAt := if host then s.time + 1000 else r.pollAt, watch := match pl with | .dev ca => some ca | _ => none }
        if (match pl with | .dev ca => s.badRead ca 8 | _ => false) then s.schedNote pl 8
        else (s.depSee q (leNat (s.schedRead pl 8)) (match pl with | .dev ca => (s.l2Rec (lineOf ca)).done | _ => 0)).dispatch

/-- DEPENDENCE_READ: a dependence word of device memory is read at its home slice, and a watch is registered there. -/
def execDependenceRead (q : Nat) (s : State) : Out := .next (depRead false q s)
/-- DEPENDENCE_POLL: a dependence word of host memory is read, every 1,000 ticks. -/
def execDependencePoll (q : Nat) (s : State) : Out := .next (depRead true q s)

/-- The queues that watch a line read it again at each write of it, in coherence order and in the tick of the write; every queue whose
dependence it satisfies latches it then (R391, R398). A word with an uncorrectable error satisfies none, and is counted (R411). -/
def State.readWatches (s : State) : State :=
  if s.hits.isEmpty then s
  else
    let seen := s.hits.foldl (fun s h =>
      s.queues.foldl (fun t q => match q.2.watch with
        | some ca =>
          if lineOf ca ≠ h.1 then t
          else if t.badRead ca 8 then t.noteBad ca 8
          else t.depSee q.1 (leNat ((h.2.1.drop (ca % 128)).take 8)) h.2.2
        | none => t) s) s
    { seen with hits := [] }.dispatch

/-! ### Selection and placement (R392, R393) -/

/-- The effective priority of a grid (R392, step 2). -/
def State.effPrio (s : State) (g : Grid) : Nat :=
  let age := (s.part g.part).age
  if age = 0 then pkPrio g.pkt else min 7 (pkPrio g.pkt + (s.time - g.dispTick) / age)

/-- Whether a grid comes before another (R392, step 3). -/
def State.before (s : State) (a b : Grid) : Bool :=
  decide (s.effPrio b < s.effPrio a) || (decide (s.effPrio a = s.effPrio b) &&
    (decide (a.dispTick < b.dispTick) || (decide (a.dispTick = b.dispTick) && decide (a.queue < b.queue))))

/-- Inserts into a list that an order ranks. -/
def insertBy {α : Type} (lt : α → α → Bool) (a : α) : List α → List α
  | [] => [a]
  | b :: r => if lt a b then a :: b :: r else b :: insertBy lt a r

/-- The dispatchable grids in the order of R392. -/
def State.ranked (s : State) : List Grid :=
  (s.grids.filter fun (g : Grid) => decide (g.state = .dispatchable)).foldl (fun l g => insertBy s.before g l) []

/-- A candidate of a grid: a saved hall, or the next pending one. -/
inductive Cand where
  | restore (hall : Nat)
  | fresh
deriving DecidableEq, Repr

/-- The candidates of a grid in the order of step 4; no new set is placed while power is limited (R427). -/
def State.cands (s : State) (g : Grid) : List Cand :=
  let halls := (g.images.filter fun im => (s.cset im.set.ref).isNone).foldl (fun l (im : Image) => insertNat im.set.hall l) []
  halls.map Cand.restore ++ (if g.next < g.count ∧ s.pkg.limited = false then [Cand.fresh] else [])

/-- A die has placed something now. -/
def State.placedNow (s : State) (die : Nat) : State := { s with lastPlace := s.lastPlace.setIfInBounds die s.time }

/-- The next pending hall of a grid takes its place now on a die; TFIRST is the tick of the first (R394). -/
def State.putNext (s : State) (die : Nat) (g : Grid) (spots : List (Nat × Nat × List Nat)) (plan : List (Nat × List (Nat × Nat × List Nat))) : State :=
  ((s.putHall g g.next (s.time + s.cycles 64) spots).updGrid g.id fun x =>
    { x with next := x.next + pkHall g.pkt, tfirst := if g.tfirst = 0 then s.time else g.tfirst, plan }).placedNow die

/-- The next hall of a co-resident packet whose places are decided, when its die's opportunity comes. -/
def State.placePlanned (s : State) (die : Nat) (g : Grid) : Option State :=
  match g.plan with
  | (d, spots) :: rest => if d = die then some (s.putNext die g spots rest) else none
  | [] => none

/-- A candidate placed on a die, when it fits. The places of all the halls of a co-resident packet are decided at once (R392). -/
def State.placeCand (s : State) (die : Nat) (g : Grid) (c : Cand) : Option State :=
  match c with
  | .restore h =>
    let ims := g.images.filter fun im => decide (im.set.hall = h)
    match s.findBlock g.part g.pkt die (ims.map fun im => (im.set.ref.set - h, im.lines.length)) with
    | none => none
    | some spots => some (((ims.zip spots).foldl (fun s x =>
        s.enterSet { x.1.set with phase := .restoring (s.time + s.cycles 64) } x.1.lines x.2.2.1 x.2.2.2) s).placedNow die)
  | .fresh =>
    if pkRsvc g.pkt ∧ g.next = 0 then
      (s.planAll g (g.count / pkHall g.pkt) 0).map fun plan =>
        let t := s.updGrid g.id fun x => { x with plan }
        (t.placePlanned die { g with plan }).getD t
    else (s.findBlock g.part g.pkt die (newMembers g.pkt)).map fun spots => s.putNext die g spots []

/-- The grid of a co-resident packet whose halls take their places now. -/
def State.planned (s : State) : Option Grid := s.grids.find? fun g => decide (g.state = .dispatchable) && !g.plan.isEmpty

/-- The die's opportunity: the first candidate that fits is placed. A co-resident packet takes consecutive opportunities, between which nothing
else is placed (R392); while power is limited they wait (R427). -/
def State.placeOn (s : State) (die : Nat) : Option State :=
  if s.time < s.nextPlace die then none
  else match s.planned with
    | some g => if s.pkg.limited then none else s.placePlanned die g
    | none => s.ranked.findSome? fun g => (s.cands g).findSome? fun c => s.placeCand die g c

/-- The set that a grid which cannot be placed displaces (R393). (DEDUCED, assumption 43.) -/
def State.victim (s : State) (g : Grid) : Option CSet :=
  let prio (c : CSet) : Nat × Nat × Bool := match s.grid c.ref.grid with
    | some v => (pkPrio v.pkt, v.dispTick, pkPers v.pkt)
    | none => (0, 0, true)
  let ok (c : CSet) : Bool :=
    decide (c.part = g.part) && decide (c.phase = .resident) && (s.part g.part).eligible (pkPers g.pkt) c.core && !(prio c).2.2 &&
    decide ((prio c).1 + 2 ≤ s.effPrio g)
  let worse (a b : CSet) : Bool :=
    decide ((prio a).1 < (prio b).1) || (decide ((prio a).1 = (prio b).1) &&
      (decide ((prio b).2.1 < (prio a).2.1) || (decide ((prio a).2.1 = (prio b).2.1) && decide (b.ref.set < a.ref.set))))
  ((s.sets.filter ok).foldl (fun l c => insertBy worse c l) []).head?

/-- Whether a grid's next candidate fits on a die, whenever that die's next opportunity is. -/
def State.fitsSome (s : State) (g : Grid) : Bool :=
  match (s.cands g).head? with
  | some c => (s.placeCand 0 g c).isSome || (s.placeCand 1 g c).isSome
  | none => true

/-- Displacement for the first grid whose next candidate fits on neither die and which has a victim that its partition's image area has room
for, one hall at a time; a grid whose area has no room waits (R393). -/
def State.displace (s : State) : State :=
  match s.ranked.findSome? fun g =>
      if s.fitsSome g ∨ (s.sets.any fun c => decide (c.part = g.part) && decide (c.phase = .stopping)) then none
      else (s.victim g).filter s.imageRoom with
  | some c => s.preempt c
  | none => s

/-- PLACEMENT: one opportunity of a die. Die 0 decides first; a grid that fits nowhere may displace resident work, whatever else is
placed. -/
def execPlacement (die : Nat) (s : State) : Out :=
  let s := s.dispatch
  if 1 < die then .next s
  else if die = 1 ∧ (s.placeOn 0).isSome then .next s
  else
    match s.placeOn die with
    | some t => .next (t.dispatch).displace
    | none => .next s.displace

/-- The sets that become resident together with a set: its hall, or, for a set of the packet of a co-resident grid, every set of the
packet (R57, R392); a set that GROW added comes as an ordinary one. -/
def State.comingWith (s : State) (c : CSet) : List CSet :=
  match s.grid c.ref.grid with
  | some g =>
    if pkRsvc g.pkt && decide (c.ref.set < pkCount g.pkt) then
      s.sets.filter fun d => decide (d.ref.grid = c.ref.grid) && decide (d.ref.set < pkCount g.pkt)
    else s.hallOf c
  | none => s.hallOf c

/-- LINES_RESIDENT: 64 cycles after its placement a hall's lines become resident; those of a co-resident grid together. -/
def execLinesResident (r : SetRef) (s : State) : Out :=
  match s.cset r with
  | none => .next s
  | some c =>
    let mates := s.comingWith c
    let due (d : CSet) : Bool := match d.phase with | .placed a => decide (a ≤ s.time) | _ => true
    let more := match s.grid c.ref.grid with | some g => decide (c.ref.set < pkCount g.pkt) && !g.plan.isEmpty | none => false
    match c.phase with
    | .placed _ =>
      if more || !mates.all due then .next s
      else
        let placed (d : CSet) : Bool := match d.phase with | .placed _ => true | _ => false
        let new := (mates.filter placed).map CSet.ref
        let refs := (s.lines.filter fun (l : Line) => new.contains (setOf l.ref)).map Line.ref
        let t := seatLines s.nextId refs [] s
        .next { t with
          nextId := s.nextId + 1
          sets := t.sets.map fun (d : CSet) => if new.contains d.ref then { d with phase := .resident } else d }
    | _ => .next s

/-! ### Saving an image (R312, R378, R379, R198) -/

/-- Bytes whose layout the specification does not give. -/
def freeBytes (ctr n : Nat) : List Byte := (List.range n).map fun i => (Config.freeWord (ctr + i)).setWidth 8

/-- Bits by number, eight to a byte. -/
def bitBytes (n : Nat) (f : Nat → Bool) : List Byte :=
  (List.range n).map fun i => BitVec.ofNat 8 (((List.range 8).filter fun j => f (8 * i + j)).foldl (fun m j => m + 2 ^ j) 0)

/-- A tile's 64 KiB, row-major. -/
def Tile.bytes (t : Tile) : List Byte := ((List.range 16384).map fun i => bytesOf (tget 0 t i).toNat 4).flatten
def Plane.bytes (p : Plane) : List Byte := padTo 0x10000 p.rows ++ padTo 0x2000 p.info

/-- The bytes of a set image; those whose layout R378 does not give are free. (DESIGN CHOICE, assumption 39.) -/
def Image.bytes (im : Image) (ctr : Nat) : List Byte :=
  let c := im.set
  let copies (q : Nat) : List Byte :=
    padTo 0x1000 (freeBytes (ctr + 256 + 0x1000 * q) (128 * (im.copies.filter fun (o : CopyOp) => decide (o.queue = q)).length))
  freeBytes ctr 256 ++ (c.slots.toList.map fun d => (d.toList.map fun w => bytesOf w.toNat 4).flatten).flatten ++
  padTo 0xA00 (c.mons.toList.map fun m => bytesOf m.word.toNat 8).flatten ++
  copies 0 ++ copies 1 ++ copies 2 ++ copies 3 ++
  padTo 0x1000 (freeBytes (ctr + 256 + 0x4000) (256 * im.drains.length)) ++
  bitBytes 0x2000 c.isFull ++ padTo 0x8000 (bitBytes 0x2000 c.isMark) ++
  (c.tiles.toList.map Tile.bytes).flatten ++ c.active.bytes ++ padTo 0x1E000 c.shadow.bytes ++
  readBytes c.spad 0 c.win ++ (im.lines.map fun l => l.imageBytes c.hall).flatten ++
  (im.drains.map fun o => match o.kind with
    | .mdrain _ _ _ _ _ vs true => padTo 0x20000 (vs.map fun v => bytesOf v.toNat 8).flatten
    | _ => []).flatten

/-- The free values that an image takes. -/
def imageFree : Nat := 256 + 0x5000

/-- Writes bytes at a canonical address, one 128-byte line at a time. -/
def State.bulkWrite (s : State) (ca : Nat) (bs : List Byte) : State :=
  (chunks 128 bs).zipIdx.foldl (fun s x => if isDev (ca + 128 * x.2) then s.devWrite none (ca + 128 * x.2) x.1 else s) s

/-- The 32-byte words of an image at a canonical address that hold granules with an uncorrectable error: no byte of such a granule can be read, and
its word carries an error that a read detects (R22, R411). (DESIGN CHOICE, assumption 97.) -/
def State.markBadImage (s : State) (c : CSet) (addr : Nat) : State :=
  { s with badDev := ((c.badGran.map fun g => (addr + 0x80000 + 16 * g) / 32).filter fun w => !s.badDev.contains w).eraseDups ++ s.badDev }

/-- Whether a set that is being pre-empted has come to rest: its accesses acknowledged, those that wait on a tag too (R198, R379), its matrix work
done, its queue operations complete or able to stop, and no line inside a run or a block (R56, R249). -/
def State.atRest (s : State) (c : CSet) : Bool :=
  let mine (r : LineRef) : Bool := decide (setOf r = c.ref)
  (s.flight.all fun a => match a.issuer with | .line r _ => !mine r | _ => true) &&
  (s.bankQ.all fun q => !mine q.issuer) && (s.waitQ.all fun q => !(mine q.issuer && q.isAccess)) &&
  (s.fab.waits.all fun w => !mine w.issuer || w.done.isSome) &&
  (s.fab.sendQ.all fun e => match e.issuer with | some r => !mine r | none => true) &&
  (s.matQ.all fun o => !mine o.issuer) && (s.runs.all fun m => decide (m.set ≠ c.ref)) && (s.loads.all fun b => decide (b.set ≠ c.ref)) &&
  (s.copyQ.all fun o => !(mine o.issuer && s.copyRuns o)) && (s.drainQ.all fun o => !(mine o.issuer && o.runs)) &&
  (s.linesOf c.ref).all fun l => l.takeRun.isNone && (!l.bv || decide (l.status = .trapped)) &&
    (match l.status with | .wait (.block _) | .wait .barStep => false | _ => true)

/-- What a line waits for when it is restored: the rendezvous latch keeps it, and a WAITA whose granule has been filled is over (R277);
everything else it looks at again, a barrier too (R43, R275, R303, R380). -/
def Line.saved (l : Line) : Line :=
  match l.status with
  | .wait (.latch _) | .wait .filled => l
  | .wait (.mma _) | .wait (.mloadb _) => { l with status := .ready, tri := 0 }
  | .wait _ => { l with status := .ready }
  | _ => l

/-- The image of a set that has come to rest. -/
def State.imageOf (s : State) (c : CSet) (addr : Nat) : Image :=
  let mine (r : LineRef) : Bool := decide (setOf r = c.ref)
  let drains := s.drainQ.filter fun (o : DrainOp) => mine o.issuer
  { set := c, lines := (s.linesOf c.ref).filter fun l => decide (l.status ≠ .ended),
    copies := s.copyQ.filter fun (o : CopyOp) => mine o.issuer, drains, addr,
    size := s.imageSize c (drains.filter fun o => match o.kind with | .mdrain _ _ _ _ _ _ r => r | _ => false).length }

/-- The places of a set's lines, drain operations and copies in the lists of granules are given up, and those behind them called. -/
def State.leaveLists (s : State) (r : SetRef) : State :=
  let s := (s.linesOf r).foldl (fun s l => s.dropWaits l) s
  let s := s.leaveTile { grid := r.grid, set := r.set, line := 20 }
  { s with waitQ := s.waitQ.filter fun (q : BankReq) => decide (setOf q.issuer ≠ r) }

/-- One set leaves its core: its image is written, and its lines and operations go with it. -/
def State.saveSet (s : State) (c : CSet) (addr : Nat) : State :=
  let s := s.leaveLists c.ref
  let im := s.imageOf c addr
  let s := (s.linesOf c.ref).foldl (fun s l => (s.orphanRecord l).offSlot l.ref) s
  let s := { ((s.bulkWrite addr (im.bytes s.freeCtr)).markBadImage c addr) with freeCtr := s.freeCtr + imageFree }
  { (s.updGrid c.ref.grid fun g => { g with images := g.images ++ [{ im with lines := im.lines.map Line.saved }] }) with
    sets := s.sets.filter fun (d : CSet) => decide (d.ref ≠ c.ref)
    lines := s.lines.filter fun (l : Line) => !(decide (setOf l.ref = c.ref) && decide (l.status ≠ .ended))
    copyQ := s.copyQ.filter fun (o : CopyOp) => decide (setOf o.issuer ≠ c.ref)
    drainQ := s.drainQ.filter fun (o : DrainOp) => decide (setOf o.issuer ≠ c.ref) }

/-- The parked BARWAITs of a set's lines leave their barriers, each lowering WAIT by one; their threads test again when the set is
restored (R275). The word of a barrier with an uncorrectable error stays as it is (R411). -/
def State.unpark (s : State) (r : SetRef) : State :=
  let parked (q : BankReq) : Bool := decide (setOf q.issuer = r) && (match q.op with | .barWait _ => true | _ => false)
  { (s.waitQ.filter parked).foldl (fun s q => s.updSet q.set fun c =>
      if c.badGran.contains (q.off / 16) then c
      else let b := c.bar (q.off / 16); c.setBar (q.off / 16) { b with wait := b.wait - 1 }) s with
    waitQ := s.waitQ.filter fun q => !parked q }

/-- CONTEXT_SAVE: every stopping set of the hall has come to rest, and the images are written. -/
def execContextSave (r : SetRef) (s : State) : Out :=
  match s.cset r with
  | none => .next s
  | some c =>
    let hall := (s.hallOf c).filter fun (d : CSet) => decide (d.phase = .stopping)
    if c.phase ≠ .stopping ∨ !hall.all s.atRest then .next s
    else
      let area := s.imageArea c.part
      match placeImages area.1 area.2 (s.imageUse c.part) (hall.map fun d => (s.imageOf d 0).size) with
      | none => .next s
      | some places =>
        let t := hall.foldl (fun s d => s.unpark d.ref) s
        .next ((hall.zip ((places.take hall.length).reverse)).foldl (fun s x => match s.cset x.1.ref with
          | some d => s.saveSet d x.2.1
          | none => s) t)

/-! ### Restoring an image (R380) -/

/-- A table of the non-default values at numbers below n. -/
def tabOf (n : Nat) (f : Nat → Word) : Tab Word := (List.range n).filterMap fun i => if f i = 0 then none else some (i, f i)

/-- A plane as it stands at a canonical address; an empty plane stays empty. -/
def State.loadPlane (s : State) (p : Plane) (ca : Nat) : Plane :=
  match p.kind with
  | some _ => { p with rows := readBytes s.dev ca p.rows.length, info := readBytes s.dev (ca + 0x10000) p.info.length }
  | none => p

/-- Whether a word of the set's own state in an image carries an uncorrectable error: the header, the slots, the monitors, the tags and marks, the
tiles or the planes. -/
def State.badSetWords (s : State) (a : Nat) : Bool := s.badRead a 0x700 || s.badRead (a + 0x6000) 0x4000 || s.badRead (a + 0x10000) 0x64000

/-- A set as its image holds it; what the image keeps in no stated place comes as it was saved, and so does its own state when a word of that cannot
be read: the lines, which would consume it, take the fault (R22, R411). A granule whose word cannot be read is one that cannot. (DESIGN CHOICE,
assumption 97.) -/
def State.loadSet (s : State) (im : Image) (c : CSet) : CSet :=
  let a := im.addr
  let word (o : Nat) : Word := BitVec.ofNat 32 (readLe s.dev (a + o) 4)
  let flag (o i : Nat) : Bool := (readByte s.dev (a + o + i / 8)).getLsbD (i % 8)
  let grans := List.range (c.win / 16)
  let mon (m : Nat) : Monitor := let v := readLe s.dev (a + 0x600 + 8 * m) 8; { count := v % 2 ^ 48, sat := v.testBit 63 }
  let own : CSet := if s.badSetWords a then im.set else { im.set with
    slots := Vector.ofFn fun i : Fin 32 => Vector.ofFn fun j : Fin 10 => word (0x100 + 40 * i.val + 4 * j.val)
    mons := Vector.ofFn fun m : Fin 32 => mon m.val
    full := grans.filter (flag 0x6000), marks := grans.filter (flag 0x8000)
    tiles := Vector.ofFn fun t : Fin 4 => tabOf 16384 fun i => word (0x10000 + 0x10000 * t.val + 4 * i)
    active := s.loadPlane im.set.active (a + 0x50000), shadow := s.loadPlane im.set.shadow (a + 0x62000) }
  { own with
    core := c.core, slot := c.slot, phase := if im.lines.isEmpty then .ended else .resident
    badGran := grans.filter fun g => s.badRead (a + 0x80000 + 16 * g) 16
    spad := (List.range c.win).filterMap fun i =>
      let b := readByte s.dev (a + 0x80000 + i)
      if b = 0 then none else some (i, b) }

/-- Whether a word of a line image, other than one of x registers, carries an uncorrectable error. -/
def State.badLineWords (s : State) (hall ca : Nat) (l : Line) : Bool :=
  s.badRead ca 0x1000 && (List.range 0x400).any fun i => (l.imageWord hall (4 * i)).isSome && s.badRead (ca + 4 * i) 4

/-- The x registers, by thread and number, whose words in a line image carry an uncorrectable error: they receive no value, as those of a load
(R55, R411). -/
def State.badXWords (s : State) (ca : Nat) (l : Line) : List (Nat × Nat) :=
  ((List.range (l.width * l.xregs)).filter fun i => decide (i % l.xregs ≠ 0) && s.badRead (ca + 0x1000 + 4 * i) 4).map fun i => (i / l.xregs, i % l.xregs)

/-- A line as its image at a canonical address holds it; a word with an uncorrectable error is not delivered. -/
def State.loadLine (s : State) (hall ca : Nat) (l : Line) : Line :=
  let l := (List.range (l.imageEnd / 4)).foldl (fun l i =>
    let v := BitVec.ofNat 32 (readLe s.dev (ca + 4 * i) 4)
    match l.imageWord hall (4 * i) with
    | none => l
    | some _ =>
      if s.badRead (ca + 4 * i) 4 then l
      else if 4 * i = 0x004 then { l with lmode := lmodeWrite ((l.lmode &&& 0xFFFF) ||| (v &&& 0x300000)) v }
      else if 4 * i = 0x008 then { l with kstat := v &&& 0x3FF }
      else (l.imageWrite hall s.nextId (4 * i) v).getD l) l
  { l with failed := l.failed ++ (s.badXWords ca l).map fun p => (p.1, p.2, { cls := 0x14, uid := s.nextId }) }

/-- A saved operation enters at the head of a queue: behind an operation that has begun, before every other. -/
def enterHead {α : Type} (mine begun : α → Bool) (ops q : List α) : List α :=
  (q.filter fun o => mine o && begun o) ++ ops ++ q.filter fun o => !(mine o && begun o)

/-- A saved operation whose words in the image carry an uncorrectable error stops with that fault (R411). -/
def OpState.orBad (st : OpState) (bad : Bool) : OpState := if bad && !st.isStopped then .stopped 0x14 0 else st

/-- An operation that was saved stopped stops again at the new core, with a new record (R385); one that could not be read stops there, and its
line hears of it (R163). -/
def State.stopAgain (s : State) (issuer : LineRef) (part core queue : Nat) (st : OpState) (n : Nat) (fresh : Bool) : State :=
  match st with
  | .stopped cls addr =>
    let w := s.engineRecord part (s.engineRec issuer (queueHandle core queue) queue cls addr n)
    if fresh then w.1.queueErr issuer queue w.2 else w.1
  | _ => s

/-- The MDRAINs of an image, with the tile values that the image holds, 128 KiB for each whose tile was read (R378, R380). -/
def State.loadDrains (s : State) (ca : Nat) : List DrainOp → List DrainOp
  | [] => []
  | o :: r => match o.kind with
    | .mdrain t d sw e lm vs true =>
      (if s.badRead ca (8 * vs.length) then { o with state := o.state.orBad true }
       else { o with kind := .mdrain t d sw e lm ((List.range vs.length).map fun i => BitVec.ofNat 64 (readLe s.dev (ca + 8 * i) 8)) true }) ::
        s.loadDrains (ca + 0x20000) r
    | _ => o :: s.loadDrains ca r

/-- The copy operations of an image on a core, those of each queue in their order. -/
def State.loadCopies (s : State) (a core : Nat) (ops : List CopyOp) : List CopyOp :=
  (List.range 4).flatMap fun q => (ops.filter fun (o : CopyOp) => decide (o.queue = q)).zipIdx.map fun x =>
    { x.1 with core, state := x.1.state.orBad (s.badRead (a + 0x1000 + 0x1000 * q + 128 * x.2) 128) }

/-- A line of a restored set: it takes the uncorrectable-data fault when what it resumes from could not be read, and one that was saved trapped
writes its record again at its new handle (R22, R380, R411). -/
def State.resumeSaved (s : State) (bad : Bool) (l : Line) : State :=
  if bad then s.trapEntry l { cls := 0x14 } l.pc l.tri l.pc ((s.codeWord l).getD 0) l.tri
  else if l.status = Status.trapped then
    let w := s.putRecord l.part { l.record with handle := l.handle }
    w.1.updLine l.ref fun m => { m with record := w.2.1, recStage := w.2.2 }
  else s

/-- One set of the hall is loaded: its state, its operations, and the records of its trapped lines at their new handles. No word of the image with
an uncorrectable error is delivered (R22, R411); the core's L1 copies go, which may be older than what the lines have seen (R169, R170). (DEDUCED,
assumption 40; DESIGN CHOICE, assumption 97.) -/
def State.restoreSet (s : State) (im : Image) (c : CSet) : State :=
  let start := im.addr + 0x80000 + c.win
  let offs := im.lines.foldl (fun (acc : List Nat × Nat) l => (acc.1 ++ [acc.2], acc.2 + l.imageSize)) ([], start)
  let loaded := (im.lines.zip offs.1).map fun x => (s.loadLine im.set.hall x.2 x.1, s.badSetWords im.addr || s.badLineWords im.set.hall x.2 x.1)
  let seat (l : Line) : Line := match loaded.find? fun m => decide (m.1.ref = l.ref) with
    | some m => { m.1 with core := l.core, lane := l.lane, slot := l.slot, age := s.nextId, waited := 0, starved := false }
    | none => l
  let copies := s.loadCopies im.addr c.core im.copies
  let drains := s.loadDrains (im.lines.foldl (fun a l => a + l.imageSize) start) (im.drains.zipIdx.map fun x =>
    { x.1 with core := c.core, state := x.1.state.orBad (s.badRead (im.addr + 0x5000 + 256 * x.2) 256) })
  let stoppedBefore (id : Nat) : Bool := (im.copies.any fun o => decide (o.id = id) && o.state.isStopped) ||
    im.drains.any fun o => decide (o.id = id) && o.state.isStopped
  let s := s.noteBad im.addr im.size
  let s := { s with
    l1 := s.l1.filter fun e => decide (e.core ≠ c.core)
    sets := s.sets.map fun (d : CSet) => if d.ref = c.ref then s.loadSet im c else d
    lines := s.lines.map seat
    copyQ := (List.range 4).foldl (fun q n =>
      enterHead (fun (o : CopyOp) => decide (o.core = c.core) && decide (o.queue = n)) (fun (o : CopyOp) => decide (o.state ≠ OpState.queued))
        (copies.filter fun (o : CopyOp) => decide (o.queue = n)) q) s.copyQ
    drainQ := enterHead (fun (o : DrainOp) => decide (o.core = c.core)) (fun (o : DrainOp) => decide (o.state ≠ OpState.queued)) drains s.drainQ
    nextId := s.nextId + 1 }
  let s := copies.foldl (fun s o => s.stopAgain o.issuer o.part o.core o.queue o.state o.n (!stoppedBefore o.id)) s
  let s := drains.foldl (fun s o => s.stopAgain o.issuer o.part o.core 4 o.state o.n (!stoppedBefore o.id)) s
  let s := (s.linesOf c.ref).foldl (fun (s : State) (l : Line) => s.resumeSaved (loaded.any fun m => decide (m.1.ref = l.ref) && m.2) l) s
  s.updGrid c.ref.grid fun g => { g with images := g.images.filter fun x => decide (x.set.ref ≠ c.ref) }

/-- CONTEXT_RESTORE: every member of the hall is loaded, and the lines go on (R380). -/
def execContextRestore (r : SetRef) (s : State) : Out :=
  match s.cset r, s.grid r.grid with
  | some c, some g =>
    match c.phase with
    | .restoring a =>
      if s.time < a then .next s
      else
        let hall := (s.hallOf c).filter fun (d : CSet) => match d.phase with | .restoring _ => true | _ => false
        let t := hall.foldl (fun s d => match g.images.find? fun im => decide (im.set.ref = d.ref) with
          | some im => s.restoreSet im d
          | none => s) (seatLines s.nextId
            ((s.lines.filter fun (l : Line) => hall.any fun d => decide (d.ref = setOf l.ref)).map Line.ref) [] s)
        .next t
    | _ => .next s
  | _, _ => .next s

/-! ### Completion (R199, R394 to R396) -/

/-- The 64 bytes of a completion record. -/
def recordBytes (stat errc gtag sets killed queue tread tfirst tdone : Nat) : List Byte :=
  bytesOf (stat + errc * 0x100 + gtag * 0x10000) 4 ++ bytesOf sets 4 ++ bytesOf killed 4 ++ bytesOf queue 4 ++ bytesOf tread 8 ++
  bytesOf tfirst 8 ++ bytesOf tdone 8 ++ List.replicate 24 0

/-- Nothing of a grid is under way: no set, line, image, access, operation or packet. -/
def State.gridIdle (s : State) (g : Grid) : Bool :=
  let mine (r : LineRef) : Bool := decide (r.grid = g.id)
  g.images.isEmpty && (s.sets.all fun c => decide (c.ref.grid ≠ g.id)) && (s.lines.all fun l => !mine l.ref) &&
  (s.flight.all fun a => decide (a.grid ≠ g.id)) && (s.fab.waits.all fun w => !mine w.issuer || w.done.isSome) &&
  (s.fab.sendQ.all fun e => match e.issuer with | some r => !mine r | none => true) &&
  (s.copyQ.all fun o => !mine o.issuer) && (s.drainQ.all fun o => !mine o.issuer)

/-- The STAT of the record that is due: a refused grid, an abandoned one, a complete one. -/
def State.recordDue (s : State) (g : Grid) : Option Nat :=
  match g.state with
  | .refused => some 3
  | .abandoned => if s.gridIdle g then some 2 else none
  | .dispatchable => if g.count ≤ g.next ∧ g.count ≤ g.ended ∧ s.gridIdle g ∧ g.lastG ≤ s.time then some 1 else none
  | _ => none

def State.dropGrid (s : State) (g : Nat) : State := { s with grids := s.grids.filter fun (x : Grid) => decide (x.id ≠ g) }

/-- COMPLETION_RECORD: the record at CMPADDR. A refused packet's record is dropped when CMPADDR does not translate; a complete
grid's stops the queue with code 6. One whose CMPADDR is not aligned goes to the 64 bytes from the translation of its first on.
(DESIGN CHOICE, assumption 108.) -/
def execCompletionRecord (id : Nat) (s : State) : Out :=
  match s.grid id with
  | none => .next s
  | some g =>
    match s.recordDue g with
    | none => .next s
    | some stat =>
      let bs := recordBytes stat g.errc (pkGtag g.pkt) (if stat = 3 then (pkWord g.pkt 2).toNat else g.count - 1) g.killed g.queue
        g.tread g.tfirst s.time
      let done (s : State) (t : Nat) (late : List TabRef) : State :=
        (if stat = 3 ∨ pkSig g.pkt = 0 then s.dropGrid id else s.updGrid id fun x => { x with state := .recorded t, late }).dispatch
      match s.schedXl g.part (pkCmp g.pkt) true with
      | .walk s => .next s
      | .fault c =>
        let s := s.schedFault g.part (pkCmp g.pkt) c
        .next (done (if stat = 3 then s else s.setQueue g.queue ((s.queue g.queue).stop 6)) s.time [])
      | .ok p => let w := s.schedWrite p bs; .next (done w.1 w.2 (s.schedRefs p))

/-- COMPLETION_SIGNAL: after the record's completion time, SIGVAL at SIGADDR. (DEDUCED, assumption 44.) -/
def execCompletionSignal (id : Nat) (s : State) : Out :=
  match s.grid id with
  | none => .next s
  | some g =>
    match g.state with
    | .recorded t =>
      if decide (s.time < t) || !s.tabDone g.late then .next s
      else
        match s.schedXl g.part (pkSig g.pkt) true with
        | .walk s => .next s
        | .fault c => .next (((s.schedFault g.part (pkSig g.pkt) c).setQueue g.queue ((s.queue g.queue).stop 6)).dropGrid id)
        | .ok p => .next ((s.schedWrite p (bytesOf (pkDouble g.pkt 16) 8)).1.dropGrid id)
    | _ => .next s

/-- SIGNAL_PACKET: a dispatchable packet of TYPE 2 (R396). -/
def execSignalPacket (q : Nat) (s : State) : Out :=
  let r := s.queue q
  match r.sigPkt with
  | none => .next s
  | some p =>
    if !r.sigDep ∨ s.time < pkStart p ∨ !s.prevDone r (pkSer p) then .next s
    else
      let rec_ := recordBytes 1 0 (pkGtag p) 0 0 q r.sigRead 0 s.time
      let done (s : State) (bad : Bool) (g : Nat) (late : List TabRef) : State :=
        let r := { s.queue q with sigPkt := none, sigG := g, sigT := late }
        s.setQueue q (if bad then r.stop 6 else r)
      let sig := if pkSig p = 0 then none else some (s.schedXl r.qpart (pkSig p) true)
      match sig, s.schedXl r.qpart (pkCmp p) true with
      | some (.walk s), _ => .next s
      | _, .walk s => .next s
      | sig, cmp =>
        let w := match sig with | some (.ok a) => s.schedWrite a (bytesOf (pkDouble p 16) 8) | _ => (s, s.time)
        let bad : Bool := (match sig with | some (.fault _) => true | _ => false) || (match cmp with | .fault _ => true | _ => false)
        let t := match cmp with | .ok a => (w.1.schedWrite a rec_).1 | .fault c => w.1.schedFault r.qpart (pkCmp p) c | .walk _ => w.1
        let t := match sig with | some (.fault c) => t.schedFault r.qpart (pkSig p) c | _ => t
        .next (done t bad w.2 (match sig with | some (.ok a) => s.schedRefs a | _ => []))

/-! ### PEN (R413) -/

/-- Whether a grid holds its partition's PEN up: its packet is read, and it has not completed; a refused packet makes none, and a grid that only
its record is due to has completed. -/
def State.incomplete (s : State) (g : Grid) : Bool :=
  match g.state with
  | .refused | .recorded _ => false
  | _ => (s.recordDue g).isNone

/-- Whether PEN may not fall (R413). -/
def State.partBusy (s : State) (part : Nat) : Bool :=
  (s.sets.any fun c => decide (c.part = part) && decide (c.phase ≠ .ended)) || (s.grids.any fun g => decide (g.part = part) && s.incomplete g) ||
  (s.fab.sendQ.any fun e => decide (e.part = part) && !e.isSentRead)

/-- A write of the word that holds PEN and PCERR. -/
def State.penSet (s : State) (part : Nat) (v : Word) : State :=
  let p := s.part part
  let p := if bit v 1 then { p with pcerr := false } else p
  s.updPart part fun _ =>
    if bit v 0 = p.pen then p
    else if bit v 0 then (if s.clashes part p then p.refused else p.enable)
    else if s.partBusy part then p.refused
    else { p with pen := false, keys := [], binds := [], busy := false, cmdEnd := none }

def execPenWrite (part : Nat) (v : Word) (s : State) : Out := .next (if s.linkUp ∧ part < 8 then s.penSet part v else s)

end Sys2Proof.Machine
end

