-- ==== Sys2Proof/Machine/Attest.lean ====
section
/-!
DEFINITION. Measurements and the attestation engine (R415 to R418). A command reads the state that holds at its start; BUSY reads 1 until it
ends, when time next passes, and its results are there.
-/
namespace Sys2Proof.Machine

/-- extend of R415. -/
def extendMr (mr data : List Byte) : List Byte := shake256 (mr ++ shake256 data 64) 64

/-- The partition's X448 key pair (R413, R417). -/
def Partition.privKey (p : Partition) (part : Nat) : List Byte := Config.x448Private part p.keyGen
def Partition.pubKey (p : Partition) (part : Nat) : List Byte := padTo 56 (Config.x448Public (p.privKey part))

/-- Bytes of the command buffer. -/
def Partition.bufBytes (p : Partition) (off n : Nat) : List Byte := readBytes p.buf off n
def Partition.bufPut (p : Partition) (bs : List Byte) : Partition := { p with buf := writeBytes p.buf 0 bs }

/-- EXTEND. -/
def Partition.extendOp (p : Partition) : Partition :=
  let n := fld p.op 4 2
  { p with mrs := p.mrs.setIfInBounds n (extendMr (p.mrs.getD n mrZero) (p.bufBytes 0 (fld p.op 16 11))), res := 0 }

/-- Bytes 0 to 615 of a quote. -/
def State.quoteBody (s : State) (part : Nat) : List Byte :=
  let p := s.part part
  bytesOf 1 4 ++ bytesOf (s.pkg.domid % 4096 * 8 + part) 2 ++ [0, 0] ++ bytesOf s.time 8 ++ p.bufBytes 0 32 ++
    (s.pkg.mrs.toList.map (padTo 64)).flatten ++ (p.mrs.toList.map (padTo 64)).flatten ++ p.pubKey part

/-- QUOTE. -/
def State.quoteOp (s : State) (part : Nat) : Partition :=
  let p := s.part part
  let body := s.quoteBody part
  { p.bufPut (body ++ padTo 114 (Config.ed448Sign Config.deviceKey "Cridezo quote" body)) with res := 0 }

/-- NEWKEY: existing handles keep their keys. -/
def Partition.newkeyOp (p : Partition) : Partition := { p with keyGen := p.keyGen + 1, res := 0 }

/-- The device certificate. -/
def certificate : List Byte :=
  padTo 256 (padTo 16 Config.deviceSerial ++ padTo 57 Config.devicePublic ++ padTo 114 Config.rootSignature)

/-- CERT. -/
def Partition.certOp (p : Partition) : Partition := { p.bufPut certificate with res := 0 }

/-- The lowest free key handle. -/
def Partition.freeHandle (p : Partition) : Nat :=
  ((List.range 4096).find? fun h => decide (1 ≤ h) && !p.keys.any fun k => decide (k.handle = h)).getD 0

/-- The keys that AGREE derives: to the peer, and from it. -/
def deriveKeys (own peer : Nat) (priv ownPub peerPub : List Byte) : List Byte × List Byte :=
  let low := decide (own ≤ peer)
  let ids := if low then bytesOf own 2 ++ bytesOf peer 2 else bytesOf peer 2 ++ bytesOf own 2
  let pubs := if low then ownPub ++ peerPub else peerPub ++ ownPub
  let m := shake256 (Config.x448Shared priv peerPub ++ pubs ++ ids) 64
  if low then (m.take 32, (m.drop 32).take 32) else ((m.drop 32).take 32, m.take 32)

/-- AGREE (R418): the first check that fails gives its code. -/
def State.agreeOp (s : State) (part : Nat) : Partition :=
  let p := s.part part
  let cert := p.bufBytes 0 256
  let quote := p.bufBytes 256 730
  let peer := fld p.aarg 0 12
  if !s.pkg.didv then { p with res := 2 }
  else if !Config.ed448Verify Config.rootPublic "Cridezo device" (cert.take 73) ((cert.drop 73).take 114) then { p with res := 3 }
  else if !Config.ed448Verify ((cert.drop 16).take 57) "Cridezo quote" (quote.take 616) (quote.drop 616) then { p with res := 4 }
  else if leNat ((quote.drop 4).take 2) / 8 % 4096 ≠ peer then { p with res := 6 }
  else if (quote.drop 16).take 32 ≠ shake256 (p.pubKey part) 32 then { p with res := 5 }
  else if 4095 ≤ p.keys.length then { p with res := 7 }
  else
    let ks := deriveKeys (s.pkg.domid % 4096) peer (p.privKey part) (p.pubKey part) ((quote.drop 560).take 56)
    { p with keys := p.keys ++ [{ handle := p.freeHandle, pkg := peer, out := ks.1, in_ := ks.2 }], hnd := p.freeHandle, res := 0 }

/-- REVOKE: not while KBIND binds the handle for a peer die (R418). -/
def Partition.revokeOp (p : Partition) : Partition :=
  let h := fld p.aarg 0 12
  if !p.keys.any fun k => decide (k.handle = h) then { p with res := 9 }
  else if p.binds.any fun b => decide (b.handle = h) then { p with res := 8 }
  else { p with keys := p.keys.filter fun k => decide (k.handle ≠ h), res := 0 }

/-- What a command leaves, out of the partition as it would stand then. -/
def Partition.attRes (q : Partition) : AttRes := { mrs := q.mrs, buf := q.buf, keyGen := q.keyGen, keys := q.keys, hnd := q.hnd, res := q.res }

/-- The partition as a command leaves it (R416). -/
def State.attCommand (s : State) (part c : Nat) : Partition :=
  if c = 1 then (s.part part).extendOp
  else if c = 2 then s.quoteOp part
  else if c = 3 then (s.part part).newkeyOp
  else if c = 4 then s.agreeOp part
  else if c = 5 then (s.part part).revokeOp
  else (s.part part).certOp

/-- A write of OP, MRI and LEN, an unassigned value leaving its field (R9): a command begins; while one runs the write is ignored and RES reads 1;
an unassigned OP or a LEN above 1,024 begins none and gives RES 2 (R416, R418). -/
def State.opWrite (s : State) (part : Nat) (v : Word) : State :=
  let p := s.part part
  if p.busy then s.updPart part fun p => { p with res := 1 }
  else
    let c := fld v 0 3
    let len := fld v 16 11
    let s := s.updPart part fun p =>
      let op := putBits (putBits p.op 4 2 (fld v 4 2)) 0 3 (if c = 7 then fld p.op 0 3 else c)
      { p with op := putBits op 16 11 (if len ≤ 1024 then len else fld p.op 16 11) }
    let p := s.part part
    s.updPart part fun _ =>
      if c = 0 then p
      else if c = 7 ∨ 1024 < len then { p with res := 2 }
      else { p with busy := true, cmdEnd := some (s.attCommand part c).attRes }

/-- The command that runs ends: its results are there, and BUSY reads 0 (R416). -/
def Partition.endCommand (p : Partition) : Partition :=
  match p.cmdEnd with
  | some r => { p with mrs := r.mrs, buf := r.buf, keyGen := r.keyGen, keys := r.keys, hnd := r.hnd, res := r.res, busy := false, cmdEnd := none }
  | none => p

/-- The commands that run when time passes end then: the specification gives them no duration. (DESIGN CHOICE, assumption 45.) -/
def State.endCommands (s : State) : State :=
  if (List.range 8).any fun p => (s.part p).busy then { s with parts := s.parts.map Partition.endCommand } else s

/-- A command event: `v` is the word written to OP, with the command's code. (DESIGN CHOICE, assumption 45.) -/
def attestEvent (code part : Nat) (v : Word) (s : State) : Out :=
  .next (if s.functionUp part && decide (fld v 0 3 = code) then s.opWrite part v else s)

def execExtend (part : Nat) (v : Word) (s : State) : Out := attestEvent 1 part v s
def execQuote (part : Nat) (v : Word) (s : State) : Out := attestEvent 2 part v s
def execNewkey (part : Nat) (v : Word) (s : State) : Out := attestEvent 3 part v s
def execAgree (part : Nat) (v : Word) (s : State) : Out := attestEvent 4 part v s
def execRevoke (part : Nat) (v : Word) (s : State) : Out := attestEvent 5 part v s
def execCert (part : Nat) (v : Word) (s : State) : Out := attestEvent 6 part v s

end Sys2Proof.Machine
end

