-- ==== Sys2Proof/Machine/Package.lean ====
section
/-!
DEFINITION. Bring-up, the time base's lock, power and temperature, the lifetime records and their flash slots, firmware's
requests (R415, R419 to R430).
-/
namespace Sys2Proof.Machine

/-! ### Power and bring-up (R420 to R422) -/

/-- Power is gone: everything but the flash, the host's memory and the model's own schedule and numbering, by which the key pairs of a later
life are new ones (R413), is as at reset (R430). A record being written is lost with its slot. (DEDUCED, assumption 48.) -/
def State.powerOff (s : State) : State :=
  { State.reset with
    schedule := s.schedule, freeCtr := s.freeCtr, hostMem := s.hostMem, hostRead := s.hostRead,
    parts := Vector.ofFn fun n : Fin 8 => { State.reset.parts.get n with keyGen := (s.parts.get n).keyGen }
    pkg := { Package.reset with slotA := s.pkg.slotA, slotB := s.pkg.slotB } }

/-- POWER_ON: the package begins at step 1, and its intervals of 10,000 ticks and 600 seconds begin (R427, R430). -/
def execPowerOn (s : State) : Out :=
  .next (if s.pkg.power then s else s.updPkg fun p => { p with power := true, stage := 1, lastCheck := s.time, lastWrite := s.time })

/-- POWER_FAIL: power is removed without an orderly shutdown. -/
def execPowerFail (s : State) : Out := .next s.powerOff

/-- The digest of a record: SHAKE256 of its counters in the order of R429 and its sequence number (R430). (DESIGN CHOICE, assumption 99: its
length and the order of the two.) -/
def FlashSlot.sum (r : FlashSlot) : List Byte :=
  shake256 ((List.range Counter.total).flatMap (fun i => bytesOf (tget 0 r.counters i) (Counter.bits i / 8)) ++ bytesOf r.seq 8) 64

/-- Whether a slot's digest verifies; one whose write has not ended holds none. -/
def FlashSlot.verifies (r : FlashSlot) : Bool := !r.digest.isEmpty && decide (r.digest = r.sum)

/-- The record that firmware loads: the one whose digest verifies with the higher sequence number (R430). -/
def Package.lastRecord (p : Package) : Option FlashSlot :=
  if p.slotA.verifies && (!p.slotB.verifies || decide (p.slotB.seq < p.slotA.seq)) then some p.slotA
  else if p.slotB.verifies then some p.slotB
  else none

/-- Firmware loads the lifetime records at step 4; a stop that was not orderly counts. -/
def Package.loadRecords (p : Package) : Package :=
  match p.lastRecord with
  | some r => let q := { p with counters := r.counters }; if r.orderly then q else q.count Counter.unclean
  | none => { p with counters := [] }

/-- Package register m is extended with data. -/
def Package.extend (p : Package) (m : Nat) (data : List Byte) : Package :=
  { p with mrs := p.mrs.setIfInBounds m (extendMr (p.mrs.getD m mrZero) data) }

/-- BRINGUP_STEP: the step under way ends well, or fails and holds the package there. `data` is the firmware image of step 3, the
later firmware stage measured in step 4 and the configuration measured in step 5, each when not empty, and the ports that fail
to lock in step 7. (DEDUCED, assumption 48.) -/
def execBringupStep (ok : Bool) (data : List Byte) (s : State) : Out :=
  let p := s.pkg
  let go (f : Package → Package) : Out := .next (s.updPkg fun p => { f p with stage := p.stage + 1 })
  let fail : Out := .next (s.updPkg fun p => { p with fail := p.stage })
  let measured (m : Nat) (p : Package) : Package := if data.isEmpty then p else p.extend m data
  if !p.power ∨ p.fail ≠ 0 then .next s
  else if p.stage = 1 then (if ok then go id else fail)
  else if p.stage = 2 then (if ok then go fun p => p.extend 1 Config.fusedBounds else fail)
  else if p.stage = 3 then
    (if ok && Config.firmwareValid data then go fun p => { p.extend 0 data with firmware := data } else fail)
  else if p.stage = 4 then
    (if !ok then fail
     else .next { s with
       dev := [], badDev := [], l1 := [], l2 := []
       pkg := { measured 2 p.loadRecords with stage := 5 } })
  else if p.stage = 5 then
    (if !ok then fail
     else .next { s with
       parts := s.parts.setIfInBounds 0 { Partition.reset true with keyGen := (s.part 0).keyGen + 1 }
       pkg := { measured 3 p with stage := 6 } })
  else if p.stage = 6 then (if p.tblock || p.free then go id else .next s)
  else if p.stage = 7 then
    let bad (n : Nat) : Bool := data.any fun b => decide (b.toNat = n)
    .next { s with
      pkg := ((List.range 16).filter bad).foldl (fun p n => p.count (Counter.relockFail n)) { p with stage := 8 }
      fab := { s.fab with ports := Vector.ofFn fun n : Fin 16 => { s.fab.ports.get n with locked := !bad n.val } } }
  else if p.stage = 8 ∧ p.everReady = false then .next (s.updPkg fun p => { p with ready := true, everReady := true })
  else .next s

/-- A write of FREE in the bring-up status word (R421). -/
def State.freeSet (s : State) (v : Word) : State := s.updPkg fun p => { p with free := bit v 10 }

def execFreeWrite (v : Word) (s : State) : Out := .next (if s.linkUp then s.freeSet v else s)

/-- A write of DOMID and DIDV (R422). -/
def State.domidSet (s : State) (v : Word) : State :=
  s.updPkg fun p => if p.didv then p else { p with domid := fld v 0 12, didv := bit v 31 }

def execDomidWrite (v : Word) (s : State) : Out := .next (if s.linkUp then s.domidSet v else s)

/-! ### The time base's lock (R424, R425) -/

/-- The next round boundary of the table in force at or after now. -/
def State.nextRound (s : State) (part : Nat) : Nat :=
  match (s.part part).figure with
  | some f => if s.time ≤ f.epoch ∨ f.round = 0 then max s.time f.epoch else f.epoch + (s.time - f.epoch + f.round - 1) / f.round * f.round
  | none => s.time

/-- The time base locks: sending resumes at the next round boundary of each partition's table. -/
def State.gainLock (s : State) : State :=
  if s.pkg.tblock then s
  else (List.range 8).foldl (fun s p => s.updPart p fun q => { q with resumeAt := s.nextRound p })
    (s.updPkg fun p => { p with tblock := true })

/-- The count is set to the grandmaster's time, `offset` ticks off; the intervals that run go on (R424, R427, R430). -/
def State.setCount (s : State) (offset : Int) : State :=
  { s with
    time := ((s.time : Int) - offset).toNat
    pkg := { s.pkg with counted := true, goodSyncs := 0, lastCheck := s.pkg.lastCheck - offset, lastWrite := s.pkg.lastWrite - offset }
    fab := { s.fab with ports := s.fab.ports.map fun q => { q with lastTick := 0, window := 0, injected := 0 } } }

/-- SYNC_MESSAGE: a measurement of the offset. Before READY the first sets the count to the grandmaster's time; from eight
consecutive ones within 32 ticks the time base is locked; one outside loses the lock. (DEDUCED, assumption 20.) -/
def execSyncMessage (offset : Int) (s : State) : Out :=
  let ofs : Int := max (-32768) (min 32767 offset)
  if !s.pkg.power then .next s
  else
    let s := s.updPkg fun p => { p with tbofs := ofs }
    if !s.pkg.everReady ∧ !s.pkg.counted then .next (s.setCount offset)
    else if offset < -32 ∨ 32 < offset then .next (s.updPkg fun p => { p with tblock := false, goodSyncs := 0 })
    else
      let s := s.updPkg fun p => { p with goodSyncs := min 8 (p.goodSyncs + 1) }
      .next (if s.pkg.goodSyncs = 8 then s.gainLock else s)
/-- SYNC_TIMEOUT: no Sync for 16 intervals. -/
def execSyncTimeout (s : State) : Out := .next (s.updPkg fun p => { p with tblock := false, goodSyncs := 0 })

/-! ### Power and temperature (R427) -/

/-- POWER_CHECK, every 10,000 ticks: power averaged over the last 1,000,000 ticks and the hottest junction in °C. (DESIGN CHOICE, assumption 49.) -/
def execPowerCheck (milliwatts hottest : Nat) (s : State) : Out :=
  let p := s.pkg
  if !p.power ∨ (s.time : Int) < p.lastCheck + 10000 then .next s
  else
    let hot := decide (2400000 < milliwatts) || decide (105 < hottest)
    let cool := decide (milliwatts < 2300000) && decide (hottest < 100)
    let calm := if cool then p.calm + ((s.time : Int) - p.lastCheck).toNat else 0
    let q := { p with lastCheck := s.time, calm := calm }
    .next (s.updPkg fun _ =>
      if hot then
        (if 16 < p.clks then { q with clks := p.clks - 1, cap := p.clks - 1 }
         else if p.limited then { q with rate := min 3 (p.rate + 1) }
         else { q with limited := true })
      else if 0 < p.rate then { q with limited := false, rate := p.rate - 1 }
      else if 1000000 ≤ calm ∧ p.cap < 32 then { q with limited := false, cap := p.cap + 1, clks := min (p.cap + 1) p.fwClks, calm := 0 }
      else { q with limited := false })

/-- THERMAL_TRIP: at 115 °C the package removes its own power. -/
def execThermalTrip (hottest : Nat) (s : State) : Out := .next (if 115 ≤ hottest then s.powerOff else s)

/-! ### Lifetime records (R429, R430) -/

/-- The flash slot that the next record replaces is B: an invalid slot, else the older. (DESIGN CHOICE, assumption 21.) -/
def Package.nextIsB (p : Package) : Bool := p.slotA.verifies && (!p.slotB.verifies || decide (p.slotB.seq < p.slotA.seq))

/-- A record write begins: its slot holds no digest that verifies until it ends. -/
def Package.beginWrite (p : Package) (orderly : Bool) (now : Nat) : Package :=
  let r : FlashSlot := { seq := (match p.lastRecord with | some r => r.seq | none => 0) + 1, orderly, digest := [], counters := p.counters }
  let p := { p with pers := true, writing := some { r with digest := r.sum }, lastWrite := now }
  if p.nextIsB then { p with slotB := { p.slotB with digest := [] } } else { p with slotA := { p.slotA with digest := [] } }

/-- RECORD_WRITE, every 600 seconds of power-on. -/
def execRecordWrite (s : State) : Out :=
  .next (if s.pkg.power && decide (4 < s.pkg.stage) && s.pkg.writing.isNone && !s.pkg.shutting &&
      decide (s.pkg.lastWrite + 600000000000 ≤ (s.time : Int)) then s.updPkg fun p => p.beginWrite false s.time else s)

/-- A write of SHUT: an orderly record is written, after the one under way. -/
def State.shutSet (s : State) (v : Word) : State :=
  if !bit v 11 ∨ s.pkg.shutting then s
  else s.updPkg fun p =>
    let p := { p with shutting := true }
    if p.writing.isSome then p else (p.count Counter.orderly).beginWrite true s.time

def execShut (v : Word) (s : State) : Out := .next (if s.linkUp then s.shutSet v else s)

/-- RECORD_WRITE_DONE: the record stands in its slot; after an orderly one READY clears. -/
def execRecordWriteDone (s : State) : Out :=
  match s.pkg.writing with
  | none => .next s
  | some r =>
    .next (s.updPkg fun p =>
      let p := { p with pers := false, writing := none }
      let p := if p.nextIsB then { p with slotB := r } else { p with slotA := r }
      if r.orderly then { p with ready := false, shutting := false }
      else if p.shutting then (p.count Counter.orderly).beginWrite true s.time
      else p)

/-- The temperature bin of a junction (R429). -/
def tempBin (t : Nat) : Nat := if t < 40 then 0 else if 115 ≤ t then 16 else (t - 40) / 5 + 1

/-- POWER_ON_SECOND: one more second at the dies' temperatures and the present clock; `fixes` names the counter of each correction that ECC made in
HBM, in an L2 or in a scratchpad since the last one. A correction changes no value, so that its count is all there is of it (R411, R429).
(DESIGN CHOICE, assumption 25.) -/
def execPowerOnSecond (temps : Nat × Nat) (fixes : List Nat) (s : State) : Out :=
  .next (if s.pkg.power then s.updPkg fun p =>
    (fixes.filter Counter.isFix).foldl Package.count
      ((((p.count Counter.seconds).count (Counter.temp 0 (tempBin temps.1))).count (Counter.temp 1 (tempBin temps.2))).count (Counter.clock p.clks))
  else s)

/-- The words of the lifetime records in the order of the table: the counter, and whether the word is its high half. -/
def lifetimeWords : List (Nat × Bool) :=
  ((List.range Counter.total).map fun i => if Counter.bits i = 64 then [(i, false), (i, true)] else [(i, false)]).flatten

/-! ### Firmware (R419) -/

/-- Whether firmware may reach host memory through an open window of FWWIN0 to FWWIN3, which lie in the host's lower 4 GiB. -/
def Package.windowOpen (p : Package) (addr len : Nat) (write : Bool) : Bool :=
  decide (addr + len ≤ 2 ^ 32) && p.fwwin.any fun w => decide (fld w.2 0 20 ≠ 0) && decide (w.1.toNat ≤ addr) && decide (addr + len ≤ w.1.toNat + fld w.2 0 20 * 4096) &&
    (!write || bit w.2 20)

/-- FIRMWARE_REQUEST: a request beyond a bound is clamped to it, or dropped, and counted; a clock rises no further than R427 lets it. Firmware, once it runs (step 4), extends MR2 with each
later stage and MR3 with its configuration (R415). -/
def execFirmwareRequest (q : FwRequest) (s : State) : Out :=
  let clamped (b : Bool) (n : Nat) (p : Package) : Package := if b then p.count (Counter.clamp n) else p
  if !s.pkg.power then .next s
  else
    match q with
    | .clock u => .next (s.updPkg fun p => clamped (decide (32 < u)) 2 { p with fwClks := max 16 (min 32 u), clks := min p.cap (max 16 (min 32 u)) })
    | .voltage mv => .next (s.updPkg fun p => clamped (decide (950 < mv)) 2 { p with fwVolt := min 950 mv })
    | .laser mw => .next (s.updPkg fun p => clamped (decide (4 < mw)) 3 { p with fwLaser := min 4 mw })
    | .power mw => .next (s.updPkg fun p => clamped (decide (2400000 < mw)) 0 { p with fwPower := min 2400000 mw })
    | .throttle c => .next (s.updPkg fun p => clamped (decide (105 < c)) 1 { p with fwTemp := min 105 c })
    | .injection n => .next (s.updPkg fun p => clamped (decide (1024 < n)) 4 { p with fwInject := min 1024 n })
    | .silence => .next (s.updPkg (clamped true 6))
    | .deviceKey => .next (s.updPkg (clamped true 7))
    | .measure config data => .next (if 4 ≤ s.pkg.stage then s.updPkg fun p => p.extend (if config then 3 else 2) data else s)
    | .host addr len write data =>
      let len := if write then data.length else len
      if s.pkg.windowOpen addr len write then
        .next (if write then { s with hostMem := writeBytes s.hostMem addr data }
          else s.updPkg fun p => { p with fwData := readBytes s.hostMem addr len })
      else .next ((s.updPkg (clamped true 5)).unitRecord 0 { cls := 0x08, handle := hostHandle, addr, tick := s.time })

end Sys2Proof.Machine
end

