-- ==== Sys2Proof/Machine/HostLink.lean ====
section
/-!
DEFINITION. The host link: reads and writes of device memory (R180, R192, R411, R414), the registers of BAR 0 and BAR 2 (R363,
R364, R386, R387, R402, R412, R416, R419, R421, R429), and the command registers (R363).
-/
namespace Sys2Proof.Machine

/-! ### Registers of BAR 0 -/

/-- The cores that a partition owns, as the bits of one word of CRES. -/
def Partition.cresWord (p : Partition) (n : Nat) : Word := p.cres.getD n 0 &&& p.cores.getD n 0

/-- A write in the scheduler's block (R387). -/
def Partition.schedSet (p : Partition) (off : Nat) (v : Word) : Partition :=
  if off = 0x00 then { p with age := fld v 0 24 }
  else if 0x10 ≤ off ∧ off ≤ 0x20 then
    let n := off / 4 - 4
    { p with cres := p.cres.setIfInBounds n (v &&& p.cores.getD n 0) }
  else if off = 0x30 then { p with cxbase := fld v 0 24 }
  else if off = 0x34 then { p with cxsize := fld v 0 24 }
  else p

def Partition.schedGet (p : Partition) (off : Nat) : Word :=
  if off = 0x00 then BitVec.ofNat 32 p.age
  else if 0x10 ≤ off ∧ off ≤ 0x20 then p.cresWord (off / 4 - 4)
  else if off = 0x30 then BitVec.ofNat 32 p.cxbase
  else if off = 0x34 then BitVec.ofNat 32 p.cxsize
  else 0

/-- A write of a root drops the held entries of its tables that are no leaves, so that a walk that starts later begins at the new root
(R402); leaves are used to the end of their leases (R404). -/
def State.dropTables (s : State) (part : Nat) (peer : Bool) : State :=
  { s with tlb := s.tlb.filter fun e => !(decide (e.part = part) && (e.peer == peer) && decide (e.core = none) && !e.entry.testBit 1) }

/-- A write in the translation block (R402): words 0x0 to 0xC are the roots; TFCNT and FTO ignore a write (R8). -/
def Partition.rootSet (p : Partition) (off : Nat) (v : Word) : Partition :=
  if off = 0x0 then { p with grlo := v &&& 0xFFFFF001 }
  else if off = 0x4 then { p with grhi := v &&& 0x1FFFFFF }
  else if off = 0x8 then { p with prlo := v &&& 0xFFFFF001 }
  else if off = 0xC then { p with prhi := v &&& 0x1FFFFFF }
  else p

def State.rootWrite (s : State) (part off : Nat) (v : Word) : State :=
  if off < 0x10 then (s.updPart part fun p => p.rootSet off v).dropTables part (decide (8 ≤ off)) else s

/-- FTO: the pending entries of a die's fault table. -/
def State.ftoCount (s : State) (die : Nat) : Nat := (s.faultTab.filter fun (f : FaultEnt) => decide (f.die = die)).length

def State.rootGet (s : State) (part off : Nat) : Word :=
  let p := s.part part
  if off = 0x0 then p.grlo else if off = 0x4 then p.grhi else if off = 0x8 then p.prlo else if off = 0xC then p.prhi
  else if off = 0x10 then p.tfcnt
  else if off = 0x14 then BitVec.ofNat 32 (s.ftoCount 0 + s.ftoCount 1 * 0x10000)
  else 0

/-- A write in the attestation block (R416). -/
def State.attestSet (s : State) (part off : Nat) (v : Word) : State :=
  if off = 0x0 then s.opWrite part v
  else if off = 0x8 then s.updPart part fun p => { p with aarg := v &&& 0xFFF }
  else if 0x100 ≤ off ∧ off < 0x900 then
    s.updPart part fun p => if p.busy then p else { p with buf := writeBytes p.buf (off - 0x100) (bytesOf v.toNat 4) }
  else s

def Partition.attestGet (p : Partition) (off : Nat) : Word :=
  if off = 0x0 then p.op
  else if off = 0x4 then BitVec.ofNat 32 ((if p.busy then 1 else 0) + p.res * 0x10 + p.hnd * 0x10000)
  else if off = 0x8 then p.aarg
  else if 0x100 ≤ off ∧ off < 0x900 then BitVec.ofNat 32 (readLe p.buf (off - 0x100) 4)
  else 0

/-- The bring-up block as it reads (R421); SHUT reads zero. -/
def Package.bringupGet (p : Package) (off : Nat) : Word :=
  if off = 0x0 then
    BitVec.ofNat 32 (p.stage + p.fail * 0x10 + (if p.ready then 0x100 else 0) + (if p.tblock then 0x200 else 0) +
      (if p.free then 0x400 else 0) + (if p.pers then 0x1000 else 0))
  else if off = 0x4 then BitVec.ofNat 32 ((p.tbofs % 65536).toNat + p.clks * 0x10000)
  else if off = 0x8 then BitVec.ofNat 32 (p.domid + if p.didv then 2 ^ 31 else 0)
  else 0

/-- A write of a window register of firmware (R419). -/
def Package.windowSet (p : Package) (off : Nat) (v : Word) : Package :=
  let n := off / 8
  let w := p.fwwin.getD n (0, 0)
  { p with fwwin := p.fwwin.setIfInBounds n (if off % 8 = 0 then (v &&& 0xFFFFF000, w.2) else (w.1, v &&& 0x1FFFFF)) }

/-- A write of BAR 0 through the function of a partition; the package's own registers are the physical function's. -/
def State.bar0Set (s : State) (part off : Nat) (v : Word) : State :=
  let pf := decide (part = 0)
  let pen := (s.part part).pen
  if off < 0x10000 then
    let r := s.queue (off / 64)
    if pen && (pf || decide (r.qpart = part)) then s.setQueue (off / 64) (r.set pf (off % 64) v s.postedG s.postedT) else s
  else if off < 0x20000 then (if pen then s.updPart part fun p => p.schedSet (off - 0x10000) v else s)
  else if off < 0x30000 then (if pen then s.rootWrite part (off - 0x20000) v else s)
  else if off < 0x30200 then
    (if !pf then s
     else if off % 0x40 = 0 then s.penSet ((off - 0x30000) / 0x40) v
     else s.blockSet ((off - 0x30000) / 0x40) (off % 0x40) v)
  else if 0x40000 ≤ off ∧ off < 0x41000 then (if pen then s.attestSet part (off - 0x40000) v else s)
  else if 0x41000 ≤ off ∧ off < 0x41020 then (if pf then s.updPkg fun p => p.windowSet (off - 0x41000) v else s)
  else if off = 0x50000 then (if pf then (s.freeSet v).shutSet v else s)
  else if off = 0x50008 then (if pf then s.domidSet v else s)
  else s

/-- A read of BAR 0; reading the low word of a 64-bit counter latches its high word (R429). -/
def State.bar0Get (s : State) (part off : Nat) : State × Word :=
  let pf := decide (part = 0)
  let pen := (s.part part).pen
  let p := s.part part
  if off < 0x10000 then
    (s, if pen && (pf || decide ((s.queue (off / 64)).qpart = part)) then s.queueRead (off / 64) (off % 64) else 0)
  else if off < 0x20000 then (s, if pen then p.schedGet (off - 0x10000) else 0)
  else if off < 0x30000 then (s, if pen then s.rootGet part (off - 0x20000) else 0)
  else if off < 0x30200 then (s, if pf then s.blockRead ((off - 0x30000) / 0x40) (off % 0x40) else 0)
  else if 0x40000 ≤ off ∧ off < 0x41000 then (s, if pen then p.attestGet (off - 0x40000) else 0)
  else if 0x41000 ≤ off ∧ off < 0x41020 then
    (s, if pf then (let w := s.pkg.fwwin.getD ((off - 0x41000) / 8) (0, 0); if off % 8 = 0 then w.1 else w.2) else 0)
  else if 0x50000 ≤ off ∧ off < 0x5000C then (s, if pf then s.pkg.bringupGet (off - 0x50000) else 0)
  else if 0x60000 ≤ off ∧ pf then
    match lifetimeWords[(off - 0x60000) / 4]? with
    | some (i, false) =>
      let v := tget 0 s.pkg.counters i
      (if Counter.bits i = 64 then s.updPkg fun k => { k with latched := BitVec.ofNat 32 (v / 2 ^ 32) } else s, BitVec.ofNat 32 v)
    | some (_, true) => (s, s.pkg.latched)
    | none => (s, 0)
  else (s, 0)

/-- A write of a register through a function; unassigned numbers are ignored (R363, R364). -/
def State.barSet (s : State) (part : Nat) (bar2 : Bool) (off : Nat) (v : Word) : State :=
  if s.linkUp = false ∨ s.hasFunction part = false ∨ off % 4 ≠ 0 ∨ 0x100000 ≤ off then s
  else if bar2 then (if (s.part part).pen then (s.privWrite part (off / 4) v).getD s else s)
  else s.bar0Set part off v

def State.barGet (s : State) (part : Nat) (bar2 : Bool) (off : Nat) : State × Word :=
  if s.linkUp = false ∨ s.hasFunction part = false ∨ off % 4 ≠ 0 ∨ 0x100000 ≤ off then (s, 0)
  else if bar2 then (s, if (s.part part).pen then (s.privRead part (off / 4)).getD 0 else 0)
  else s.bar0Get part off

/-- REGISTER_WRITE. -/
def execRegisterWrite (part : Nat) (bar2 : Bool) (off : Nat) (v : Word) (s : State) : Out := .next (s.barSet part bar2 off v)

/-! ### Memory (R180) -/

/-- The enabled partition that owns a canonical address. -/
def State.ownerOf (s : State) (ca : Nat) : Option Nat := (List.range 8).find? fun p => (s.part p).pen && (s.part p).owns ca

/-- An error of a host access. (DEDUCED, assumption 47.) -/
def State.hostError (s : State) (part cls addr : Nat) : State :=
  s.unitRecord part { cls, handle := hostHandle, addr, tick := s.time }

/-- Bytes cut at the 128-byte lines of their addresses. -/
def cutLines (a : Nat) (bs : List Byte) : List (Nat × List Byte) :=
  let first := 128 - a % 128
  (a, bs.take first) :: ((chunks 128 (bs.drop first)).zipIdx.map fun x => (a + first + 128 * x.2, x.1))

/-- A host write of bytes in one 128-byte line, performed at its slice; its completion time binds later steps of the link. -/
def State.hostLine (s : State) (pa : Nat) (bs : List Byte) (posted : Bool) : State :=
  if !isDev pa then s.hostError 0 0x08 pa
  else
    let ca := canon pa
    match s.ownerOf ca with
    | none => s.hostError 0 0x08 pa
    | some part =>
      if (s.part part).regionRefuses ca 5 0 none then s.hostError part 0x09 pa
      else
        let g := s.gwct ca
        let t := s.devWrite none ca bs
        if posted then { t with postedG := max t.postedG g, postedT := t.postedT.filter t.oldUse ++ s.tabRefs ca }
        else { t with cxlG := max t.cxlG g }

/-- The table lines that a host write changes while their old contents are in use (R405, R410). -/
def State.hostRefs (s : State) (a : Nat) (data : List Byte) : List TabRef :=
  (cutLines a data).flatMap fun x => if isDev x.1 then s.tabRefs (canon x.1) else []

/-- HOST_WRITE. A CXL.mem write, one that is not posted, is answered once the time base has reached its completion time (`State.pass`). -/
def execHostWrite (p : HostPlace) (data : List Byte) (posted : Bool) (s : State) : Out :=
  .next (match p with
    | .host a => { s with hostMem := writeBytes s.hostMem a data }
    | .bar part bar2 off => if data.length = 4 then s.barSet part bar2 off (BitVec.ofNat 32 (leNat data)) else s
    | .sideband => s
    | .numVfs => if s.linkUp ∧ leNat data ≤ 7 then s.updPkg fun p => { p with numVfs := leNat data } else s
    | .dev a =>
      if !s.linkUp || data.isEmpty then s
      else
        let t := (cutLines a data).foldl (fun s x => s.hostLine x.1 x.2 posted) s
        if posted then t else { t with cxlWait := t.cxlWait ++ [(t.cxlG, s.hostRefs a data)] })

/-- HOST_READ: it completes once the time base has passed the completion time of every earlier posted write, which for one to a page table
comes after every use of the old entry (R405, R410). The package sideband reads the bring-up status word at all times (R420). A word with an uncorrectable error completes poisoned: no byte is delivered. -/
def execHostRead (p : HostPlace) (len : Nat) (s : State) : Out :=
  if decide (p ≠ .sideband) && (decide (s.time < s.postedG) || !s.tabDone s.postedT) then .next s
  else
    .next (match p with
      | .host a => { s with hostRead := readBytes s.hostMem a len }
      | .bar part bar2 off => let r := s.barGet part bar2 off; { r.1 with hostRead := bytesOf r.2.toNat 4 }
      | .numVfs => { s with hostRead := bytesOf s.pkg.numVfs 2 }
      | .sideband => { s with hostRead := bytesOf (s.pkg.bringupGet 0).toNat 4 }
      | .dev a =>
        if !s.linkUp then s
        else
          let cuts := (cutLines a (List.replicate len 0)).filter fun x => !x.2.isEmpty
          match cuts.find? fun x => !isDev x.1 || (s.ownerOf (canon x.1)).isNone with
          | some x => { s.hostError 0 0x08 x.1 with hostRead := [] }
          | none =>
            if cuts.any fun x => s.badRead (canon x.1) x.2.length then
              { cuts.foldl (fun s x => s.noteBad (canon x.1) x.2.length) s with hostRead := [] }
            else { s with hostRead := (cuts.map fun x => readBytes s.dev (canon x.1) x.2.length).flatten })

/-! ### Commands (R363) -/

/-- The command of a partition ends: CMDRES takes the result. What CMDRES holds after a command that writes no k register, or
that would fault, is a free value. (DESIGN CHOICE, assumption 36.) -/
def finishCmd (part : Nat) (r : PRes) (s : State) : State :=
  let free (t : State) : State :=
    { (t.updPart part fun p => { p with cmdBusy := false, cmdres := Config.freeWord t.freeCtr }) with freeCtr := t.freeCtr + 1 }
  match r with
  | .wait _ => s
  | .val t v => t.updPart part fun p => { p with cmdBusy := false, cmdres := v }
  | .none t => free t
  | .fault => free s

/-- A host command event: it runs while CMDOP holds its minor and is busy. -/
def hostCommand (minor part : Nat) (f : State → Word → Word → Word → PRes) (s : State) : Out :=
  let p := s.part part
  .next (if s.functionUp part && p.cmdBusy && decide (p.cmdop = minor) then
    finishCmd part (f s (p.cmda.getD 0 0) (p.cmda.getD 1 0) (p.cmda.getD 2 0)) s else s)

def execHostCxrd (part : Nat) (s : State) : Out := hostCommand 2 part (fun s a b _ => cxrdOp s part a b) s
def execHostCxwr (part : Nat) (s : State) : Out := hostCommand 3 part (fun s a b c => cxwrOp s part a b c) s
def execHostLresume (part : Nat) (s : State) : Out :=
  hostCommand 4 part (fun s a b c => if 3 < c.toNat then .fault else lresumeOp s part a b c.toNat) s
def execHostSpreempt (part : Nat) (s : State) : Out := hostCommand 9 part (fun s a _ _ => spreemptOp s part a) s
def execHostQctl (part : Nat) (s : State) : Out :=
  hostCommand 10 part (fun s a _ c => if 3 < c.toNat then .fault else qctlOp s part a c.toNat) s

/-- CMDOP_INVALID: a minor that no command has. -/
def execCmdopInvalid (part : Nat) (op : Fin 16) (s : State) : Out :=
  .next (if s.functionUp part && !cmdMinor op then s.updPart part fun p => p.command op else s)

end Sys2Proof.Machine
end

