-- ==== Sys2Proof/Machine/Dispatch.lean ====
section
/-!
DEFINITION. One arm for each row of the table of operations and events: its meaning.
-/
namespace Sys2Proof.Machine

/-- What an instruction word does on the line that issues, and what a step of an engine or of an outside agent does. -/
def exec (i : Instr) (s : State) : Host.Outcome State Fault Refusal :=
  match i with
  | .add d a b => Sys2Proof.Machine.execAdd d a b s
  | .sub d a b => Sys2Proof.Machine.execSub d a b s
  | .mul d a b => Sys2Proof.Machine.execMul d a b s
  | .mulhi d a b => Sys2Proof.Machine.execMulhi d a b s
  | .min d a b => Sys2Proof.Machine.execMin d a b s
  | .max d a b => Sys2Proof.Machine.execMax d a b s
  | .abs d a => Sys2Proof.Machine.execAbs d a s
  | .sad d a b => Sys2Proof.Machine.execSad d a b s
  | .and d a b => Sys2Proof.Machine.execAnd d a b s
  | .or d a b => Sys2Proof.Machine.execOr d a b s
  | .xor d a b => Sys2Proof.Machine.execXor d a b s
  | .andn d a b => Sys2Proof.Machine.execAndn d a b s
  | .orn d a b => Sys2Proof.Machine.execOrn d a b s
  | .xnor d a b => Sys2Proof.Machine.execXnor d a b s
  | .shl d a b => Sys2Proof.Machine.execShl d a b s
  | .shr d a b => Sys2Proof.Machine.execShr d a b s
  | .sra d a b => Sys2Proof.Machine.execSra d a b s
  | .rotl d a b => Sys2Proof.Machine.execRotl d a b s
  | .popc d a => Sys2Proof.Machine.execPopc d a s
  | .clz d a => Sys2Proof.Machine.execClz d a s
  | .brev d a => Sys2Proof.Machine.execBrev d a s
  | .icmp c d a b => Sys2Proof.Machine.execIcmp c d a b s
  | .fcmp c d a b => Sys2Proof.Machine.execFcmp c d a b s
  | .sel inv p d a b => Sys2Proof.Machine.execSel inv p d a b s
  | .fadd d a b => Sys2Proof.Machine.execFadd d a b s
  | .fsub d a b => Sys2Proof.Machine.execFsub d a b s
  | .fmul d a b => Sys2Proof.Machine.execFmul d a b s
  | .ffma d a b => Sys2Proof.Machine.execFfma d a b s
  | .ffms d a b => Sys2Proof.Machine.execFfms d a b s
  | .fmin d a b => Sys2Proof.Machine.execFmin d a b s
  | .fmax d a b => Sys2Proof.Machine.execFmax d a b s
  | .fabs d a => Sys2Proof.Machine.execFabs d a s
  | .fneg d a => Sys2Proof.Machine.execFneg d a s
  | .fclass d a => Sys2Proof.Machine.execFclass d a s
  | .fsgnj d a b => Sys2Proof.Machine.execFsgnj d a b s
  | .rcp d a => Sys2Proof.Machine.execRcp d a s
  | .rsqrt d a => Sys2Proof.Machine.execRsqrt d a s
  | .exp2 d a => Sys2Proof.Machine.execExp2 d a s
  | .log2 d a => Sys2Proof.Machine.execLog2 d a s
  | .sin d a => Sys2Proof.Machine.execSin d a s
  | .cos d a => Sys2Proof.Machine.execCos d a s
  | .cvt t d a => Sys2Proof.Machine.execCvt t d a s
  | .qcvtE4m3 d a => Sys2Proof.Machine.execQcvtE4m3 d a s
  | .qcvtE5m2 d a => Sys2Proof.Machine.execQcvtE5m2 d a s
  | .qcvtE2m1 d a => Sys2Proof.Machine.execQcvtE2m1 d a s
  | .qcvtI8 d a b => Sys2Proof.Machine.execQcvtI8 d a b s
  | .qcvtI4 d a b => Sys2Proof.Machine.execQcvtI4 d a b s
  | .srndE4m3 d a b => Sys2Proof.Machine.execSrndE4m3 d a b s
  | .srndE5m2 d a b => Sys2Proof.Machine.execSrndE5m2 d a b s
  | .srndE2m1 d a b => Sys2Proof.Machine.execSrndE2m1 d a b s
  | .srndBf16 d a b => Sys2Proof.Machine.execSrndBf16 d a b s
  | .srndF16 d a b => Sys2Proof.Machine.execSrndF16 d a b s
  | .qrange i4 d a b => Sys2Proof.Machine.execQrange i4 d a b s
  | .had32 sc d a => Sys2Proof.Machine.execHad32 sc d a s
  | .xseed e a b => Sys2Proof.Machine.execXseed e a b s
  | .mov d a => Sys2Proof.Machine.execMov d a s
  | .movxk d a => Sys2Proof.Machine.execMovxk d a s
  | .movkx d a => Sys2Proof.Machine.execMovkx d a s
  | .rdfp d => Sys2Proof.Machine.execRdfp d s
  | .wrfp a => Sys2Proof.Machine.execWrfp a s
  | .rdks d => Sys2Proof.Machine.execRdks d s
  | .wrks a => Sys2Proof.Machine.execWrks a s
  | .rdlm d => Sys2Proof.Machine.execRdlm d s
  | .p2x d => Sys2Proof.Machine.execP2x d s
  | .x2p a => Sys2Proof.Machine.execX2p a s
  | .rdtid x d => Sys2Proof.Machine.execRdtid x d s
  | .rdtime d => Sys2Proof.Machine.execRdtime d s
  | .addi d a imm => Sys2Proof.Machine.execAddi d a imm s
  | .andi d a imm => Sys2Proof.Machine.execAndi d a imm s
  | .ori d a imm => Sys2Proof.Machine.execOri d a imm s
  | .xori d a imm => Sys2Proof.Machine.execXori d a imm s
  | .shli d a n => Sys2Proof.Machine.execShli d a n s
  | .shri d a n => Sys2Proof.Machine.execShri d a n s
  | .srai d a n => Sys2Proof.Machine.execSrai d a n s
  | .addki d a imm => Sys2Proof.Machine.execAddki d a imm s
  | .lui d imm => Sys2Proof.Machine.execLui d imm s
  | .luik d imm => Sys2Proof.Machine.execLuik d imm s
  | .mode imm => Sys2Proof.Machine.execMode imm s
  | .lds t wd sx d a b => Sys2Proof.Machine.execLds t wd sx d a b s
  | .sts rel fill wd d a b => Sys2Proof.Machine.execSts rel fill wd d a b s
  | .ldgal t wd sx d a b => Sys2Proof.Machine.execLdgal t wd sx d a b s
  | .stgal rel fill wd d a b => Sys2Proof.Machine.execStgal rel fill wd d a b s
  | .ldg acq wd sx d a b => Sys2Proof.Machine.execLdg acq wd sx d a b s
  | .stg rel wd d a b => Sys2Proof.Machine.execStg rel wd d a b s
  | .ldp acq wd sx d a b => Sys2Proof.Machine.execLdp acq wd sx d a b s
  | .stp rel wd d a b => Sys2Proof.Machine.execStp rel wd d a b s
  | .ats op o d a b => Sys2Proof.Machine.execAts op o d a b s
  | .atgal op o d a b => Sys2Proof.Machine.execAtgal op o d a b s
  | .atg op o d a b => Sys2Proof.Machine.execAtg op o d a b s
  | .atp op o d a b => Sys2Proof.Machine.execAtp op o d a b s
  | .redp d a b => Sys2Proof.Machine.execRedp d a b s
  | .fdrain a => Sys2Proof.Machine.execFdrain a s
  | .sqstat d a => Sys2Proof.Machine.execSqstat d a s
  | .fence x => Sys2Proof.Machine.execFence x s
  | .qfence m => Sys2Proof.Machine.execQfence m s
  | .ifence => Sys2Proof.Machine.execIfence s
  | .barinit gal a b => Sys2Proof.Machine.execBarinit gal a b s
  | .bararrive gal a b => Sys2Proof.Machine.execBararrive gal a b s
  | .barwait gal d a => Sys2Proof.Machine.execBarwait gal d a s
  | .barinv gal a => Sys2Proof.Machine.execBarinv gal a s
  | .waita gal a => Sys2Proof.Machine.execWaita gal a s
  | .copy n d a => Sys2Proof.Machine.execCopy n d a s
  | .patset a slot => Sys2Proof.Machine.execPatset a slot s
  | .sbind wr d slot => Sys2Proof.Machine.execSbind wr d slot s
  | .seos d a => Sys2Proof.Machine.execSeos d a s
  | .srel a => Sys2Proof.Machine.execSrel a s
  | .spos d a => Sys2Proof.Machine.execSpos d a s
  | .sskip a b => Sys2Proof.Machine.execSskip a b s
  | .setstair a => Sys2Proof.Machine.execSetstair a s
  | .mloadb a b => Sys2Proof.Machine.execMloadb a b s
  | .mswap => Sys2Proof.Machine.execMswap s
  | .mma t a b => Sys2Proof.Machine.execMma t a b s
  | .mmaPort t a b => Sys2Proof.Machine.execMmaPort t a b s
  | .mmas a b => Sys2Proof.Machine.execMmas a b s
  | .mdrain t a b => Sys2Proof.Machine.execMdrain t a b s
  | .mzero t => Sys2Proof.Machine.execMzero t s
  | .mstat clr d m => Sys2Proof.Machine.execMstat clr d m s
  | .qdset a => Sys2Proof.Machine.execQdset a s
  | .jmp o => Sys2Proof.Machine.execJmp o s
  | .call o => Sys2Proof.Machine.execCall o s
  | .rcv o => Sys2Proof.Machine.execRcv o s
  | .br p inv o => Sys2Proof.Machine.execBr p inv o s
  | .jr a => Sys2Proof.Machine.execJr a s
  | .callr d a => Sys2Proof.Machine.execCallr d a s
  | .exit => Sys2Proof.Machine.execExit s
  | .kill => Sys2Proof.Machine.execKill s
  | .yield => Sys2Proof.Machine.execYield s
  | .grow d a => Sys2Proof.Machine.execGrow d a s
  | .nop => Sys2Proof.Machine.execNop s
  | .trap code => Sys2Proof.Machine.execTrap code s
  | .scall service => Sys2Proof.Machine.execScall service s
  | .kadd d a b => Sys2Proof.Machine.execKadd d a b s
  | .ksub d a b => Sys2Proof.Machine.execKsub d a b s
  | .kmul d a b => Sys2Proof.Machine.execKmul d a b s
  | .kand d a b => Sys2Proof.Machine.execKand d a b s
  | .kor d a b => Sys2Proof.Machine.execKor d a b s
  | .kxor d a b => Sys2Proof.Machine.execKxor d a b s
  | .kshl d a b => Sys2Proof.Machine.execKshl d a b s
  | .kshr d a b => Sys2Proof.Machine.execKshr d a b s
  | .ksra d a b => Sys2Proof.Machine.execKsra d a b s
  | .kmin d a b => Sys2Proof.Machine.execKmin d a b s
  | .kmax d a b => Sys2Proof.Machine.execKmax d a b s
  | .prd d a => Sys2Proof.Machine.execPrd d a s
  | .pwr a b => Sys2Proof.Machine.execPwr a b s
  | .cxrd d a => Sys2Proof.Machine.execCxrd d a s
  | .cxwr a b => Sys2Proof.Machine.execCxwr a b s
  | .lresume d a disp => Sys2Proof.Machine.execLresume d a disp s
  | .ftset a b => Sys2Proof.Machine.execFtset a b s
  | .ftcommit a b => Sys2Proof.Machine.execFtcommit a b s
  | .rgset a b => Sys2Proof.Machine.execRgset a b s
  | .rgphase a b => Sys2Proof.Machine.execRgphase a b s
  | .spreempt d a => Sys2Proof.Machine.execSpreempt d a s
  | .qctl d a op => Sys2Proof.Machine.execQctl d a op s
  | .pendingBitSet handle => Sys2Proof.Machine.execPendingBitSet handle s
  | .instructionFetch r => Sys2Proof.Machine.execInstructionFetch r s
  | .starvation r => Sys2Proof.Machine.execStarvation r s
  | .mmaIssue r => Sys2Proof.Machine.execMmaIssue r s
  | .mmaComplete x => Sys2Proof.Machine.execMmaComplete x s
  | .mloadbComplete x => Sys2Proof.Machine.execMloadbComplete x s
  | .matrixQueueEffect core => Sys2Proof.Machine.execMatrixQueueEffect core s
  | .drainOperation core => Sys2Proof.Machine.execDrainOperation core s
  | .mmasOperation core => Sys2Proof.Machine.execMmasOperation core s
  | .blockWrite r => Sys2Proof.Machine.execBlockWrite r s
  | .bankServe core bank => Sys2Proof.Machine.execBankServe core bank s
  | .slicePerform id => Sys2Proof.Machine.execSlicePerform id s
  | .acknowledgementReturn id => Sys2Proof.Machine.execAcknowledgementReturn id s
  | .loadReturn id => Sys2Proof.Machine.execLoadReturn id s
  | .leaseExpiry core line => Sys2Proof.Machine.execLeaseExpiry core line s
  | .l1Evict core line => Sys2Proof.Machine.execL1Evict core line s
  | .l2Evict line => Sys2Proof.Machine.execL2Evict line s
  | .writeConfirmed id => Sys2Proof.Machine.execWriteConfirmed id s
  | .releasePerform id => Sys2Proof.Machine.execReleasePerform id s
  | .fenceComplete r => Sys2Proof.Machine.execFenceComplete r s
  | .copyStart core queue => Sys2Proof.Machine.execCopyStart core queue s
  | .copyElement core queue => Sys2Proof.Machine.execCopyElement core queue s
  | .copyComplete core queue => Sys2Proof.Machine.execCopyComplete core queue s
  | .walk id => Sys2Proof.Machine.execWalk id s
  | .tlbLeaseExpiry n => Sys2Proof.Machine.execTlbLeaseExpiry n s
  | .slotStart part => Sys2Proof.Machine.execSlotStart part s
  | .flitSend port => Sys2Proof.Machine.execFlitSend port s
  | .flitReceive port bytes => Sys2Proof.Machine.execFlitReceive port bytes s
  | .write n => Sys2Proof.Machine.execWrite n s
  | .maskedWrite n => Sys2Proof.Machine.execMaskedWrite n s
  | .readRequest n => Sys2Proof.Machine.execReadRequest n s
  | .readCompletion n => Sys2Proof.Machine.execReadCompletion n s
  | .atomic n => Sys2Proof.Machine.execAtomic n s
  | .atomicResult n => Sys2Proof.Machine.execAtomicResult n s
  | .reductionContribution n => Sys2Proof.Machine.execReductionContribution n s
  | .acknowledgement n => Sys2Proof.Machine.execAcknowledgement n s
  | .refusal n => Sys2Proof.Machine.execRefusal n s
  | .reservedTypePacket n => Sys2Proof.Machine.execReservedTypePacket n s
  | .holdExpiry n => Sys2Proof.Machine.execHoldExpiry n s
  | .resend n => Sys2Proof.Machine.execResend n s
  | .drainMarkerAck n => Sys2Proof.Machine.execDrainMarkerAck n s
  | .holdPoint part => Sys2Proof.Machine.execHoldPoint part s
  | .darkPhase part => Sys2Proof.Machine.execDarkPhase part s
  | .tableEpoch part => Sys2Proof.Machine.execTableEpoch part s
  | .relockFailure port => Sys2Proof.Machine.execRelockFailure port s
  | .portModeSwitch port => Sys2Proof.Machine.execPortModeSwitch port s
  | .keySwitch part peer => Sys2Proof.Machine.execKeySwitch part peer s
  | .tailWrite q v => Sys2Proof.Machine.execTailWrite q v s
  | .errClear q => Sys2Proof.Machine.execErrClear q s
  | .packetRead q => Sys2Proof.Machine.execPacketRead q s
  | .dependenceRead q => Sys2Proof.Machine.execDependenceRead q s
  | .dependencePoll q => Sys2Proof.Machine.execDependencePoll q s
  | .startTimestamp q => Sys2Proof.Machine.execStartTimestamp q s
  | .placement die => Sys2Proof.Machine.execPlacement die s
  | .linesResident x => Sys2Proof.Machine.execLinesResident x s
  | .contextSave x => Sys2Proof.Machine.execContextSave x s
  | .contextRestore x => Sys2Proof.Machine.execContextRestore x s
  | .completionRecord g => Sys2Proof.Machine.execCompletionRecord g s
  | .completionSignal g => Sys2Proof.Machine.execCompletionSignal g s
  | .signalPacket q => Sys2Proof.Machine.execSignalPacket q s
  | .hostWrite p data posted => Sys2Proof.Machine.execHostWrite p data posted s
  | .hostRead p len => Sys2Proof.Machine.execHostRead p len s
  | .hostCxrd part => Sys2Proof.Machine.execHostCxrd part s
  | .hostCxwr part => Sys2Proof.Machine.execHostCxwr part s
  | .hostLresume part => Sys2Proof.Machine.execHostLresume part s
  | .hostSpreempt part => Sys2Proof.Machine.execHostSpreempt part s
  | .hostQctl part => Sys2Proof.Machine.execHostQctl part s
  | .cmdopInvalid part op => Sys2Proof.Machine.execCmdopInvalid part op s
  | .frenWrite part v => Sys2Proof.Machine.execFrenWrite part v s
  | .kbindWrite part v => Sys2Proof.Machine.execKbindWrite part v s
  | .pmodeWrite part v => Sys2Proof.Machine.execPmodeWrite part v s
  | .penWrite part v => Sys2Proof.Machine.execPenWrite part v s
  | .registerWrite part bar2 off v => Sys2Proof.Machine.execRegisterWrite part bar2 off v s
  | .extend part v => Sys2Proof.Machine.execExtend part v s
  | .quote part v => Sys2Proof.Machine.execQuote part v s
  | .newkey part v => Sys2Proof.Machine.execNewkey part v s
  | .agree part v => Sys2Proof.Machine.execAgree part v s
  | .revoke part v => Sys2Proof.Machine.execRevoke part v s
  | .cert part v => Sys2Proof.Machine.execCert part v s
  | .bringupStep ok data => Sys2Proof.Machine.execBringupStep ok data s
  | .freeWrite v => Sys2Proof.Machine.execFreeWrite v s
  | .domidWrite v => Sys2Proof.Machine.execDomidWrite v s
  | .syncMessage offset => Sys2Proof.Machine.execSyncMessage offset s
  | .powerCheck milliwatts hottest => Sys2Proof.Machine.execPowerCheck milliwatts hottest s
  | .thermalTrip hottest => Sys2Proof.Machine.execThermalTrip hottest s
  | .shut v => Sys2Proof.Machine.execShut v s
  | .illegalInstruction w => Sys2Proof.Machine.execIllegalInstruction w s
  | .firmwareRequest q => Sys2Proof.Machine.execFirmwareRequest q s
  | .powerOnSecond temps fixes => Sys2Proof.Machine.execPowerOnSecond temps fixes s
  | .powerOn => Sys2Proof.Machine.execPowerOn s
  | .syncTimeout => Sys2Proof.Machine.execSyncTimeout s
  | .recordWrite => Sys2Proof.Machine.execRecordWrite s
  | .recordWriteDone => Sys2Proof.Machine.execRecordWriteDone s
  | .powerFail => Sys2Proof.Machine.execPowerFail s

end Sys2Proof.Machine
end

