-- ==== Sys2Proof/Machine/Issue.lean ====
section
/-!
DEFINITION. A lane's issue slot: which lines are eligible (R33), which one it chooses (R34 to R37), the reading of the line's next
word and what the choice leaves behind; and, for a machine whose schedule says nothing, the next thing that happens (assumption 1).
-/
namespace Sys2Proof

/-- An instruction word, rather than a step of an engine or of an outside agent. -/
def Instr.isWord (i : Instr) : Bool := (encodeNat i).isSome

/-- What a word issues as: the instruction that it encodes, or the illegal-instruction fault (R203, R211). -/
def instrOf (w : Word) : Instr := match decodeWord w with | .ok i => i | .error _ => .illegalInstruction w

end Sys2Proof

namespace Sys2Proof.Machine

/-! ### One issue of one line -/

/-- Applies a function to the next state of an outcome. -/
def mapNext (f : State → State) : Out → Out
  | .next s => .next (f s)
  | .fault e => .fault e
  | .refused e => .refused e

/-- The lines of a lane. -/
def State.laneLines (s : State) (core lane : Nat) : List Line :=
  s.lines.filter fun (l : Line) => decide (l.core = core) && decide (l.lane = lane) && decide (l.status ≠ .ended)

/-- The line is about to issue: it pops (R51). -/
def State.prepare (s : State) (l : Line) : State := { s.setLine l.pops with cur := some l.ref }

/-- The word at a line's pc, when the core's instruction cache holds it (R147). -/
def State.wordOf (s : State) (r : LineRef) : Option Word :=
  match s.line r with
  | some l => s.cachedWord l.core l.part (s.codeVa l)
  | none => none

/-- A WAITA has issued and parks its line: the granule was empty, and from now on its becoming full ends the wait (R277). -/
def beganWaita (before m : Line) : Bool := match m.status with | .wait (.full ..) => decide (before.status ≠ m.status) | _ => false

/-- The line stood still: it parked at the thread at which it stood. -/
def stoodStill (before : Line) (after : Option Line) : Bool :=
  match after with
  | some m => !beganWaita before m && (match m.status with | .wait w => !w.byEvent && decide (m.pc = before.pc) && decide (m.tri = before.tri) | _ => false)
  | none => false

/-- FP64 arithmetic, which costs two cycles a thread (R26, R228). -/
def costsTwo (i : Instr) (l : Line) : Bool :=
  match i with
  | .fadd .. | .fsub .. | .fmul .. | .ffma .. | .ffms .. | .fmin .. | .fmax .. | .fabs .. | .fneg .. | .fclass .. | .fsgnj .. | .fcmp .. =>
    decide (l.ty = .f64)
  | .cvt t _ _ => decide (t = .f64) || decide (l.ty = .f64)
  | _ => false

/-- A block instruction: its reads issue one thread a cycle, all threads of a block in one step (R26, R249). -/
def isBlock : Instr → Bool
  | .had32 .. | .qcvtE2m1 .. => true
  | _ => false

/-- The cycles of a block instruction's step: one for each thread of the block's issue mask, of a block that is resumed from its block carry one
for each from tri on; a line of 64 threads with an empty issue mask takes its one cycle with the first block (R26, R54, R249). -/
def blockCost (l : Line) : Nat :=
  let n := ((blockThreads l).filter fun j => l.inMask j && (!l.bv || decide (l.tri ≤ j))).length
  if l.issueMask.isEmpty ∧ l.tri < 32 then 1 else n

/-- The issue cycles that an instruction took from the line's tri to where the line stands (R26). (DESIGN CHOICE, assumption 9.) -/
def issueCost (i : Instr) (before : Line) (after : Option Line) : Nat :=
  if i.lineUniform then 1
  else if isBlock i then blockCost before
  else
    let upTo := match after with
      | some m => if m.pc = before.pc ∧ (m.status ≠ .ready ∨ before.tri < m.tri) then m.tri else before.width
      | none => before.width
    max 1 ((before.issueThreads.filter fun j => decide (j < upTo)).length * if costsTwo i before then 2 else 1)

/-- A line that has been eligible for 1,024 cycles without being chosen is starved, until it is chosen (R36). -/
def Line.isStarved (l : Line) : Bool := l.starved || decide (1024 ≤ l.waited)

/-- Whether the slot goes on with the line that issued last, which stands inside its instruction: no selection point (R34). -/
def State.keepsLine (s : State) (l : Line) : Bool :=
  match s.laneMem l.core l.lane with
  | some m => m.mid && decide (m.lastRef = some l.ref)
  | none => false

/-- Whether a line that has issued stands inside its instruction: between two threads, or between the two blocks of a block instruction, the
second of which may follow at once (R34, R249). -/
def midway (before m : Line) : Bool :=
  decide (m.pc = before.pc) && (match m.status with
    | .ready => decide (before.tri < m.tri)
    | .wait (.block _) => decide (m.tri < 32) && decide (m.width = 64)
    | _ => false)

/-- What the issue of an instruction leaves in its lane: the cycles, the line that issued last, the YIELD marks, which a line that issues
spends (R37), and for how long the others have been eligible at every selection point and not chosen; where the slot only goes on with a
line there is none, and what they have waited grows (R34, R36). A line that stood still is suspended. -/
def State.noteIssue (s : State) (i : Instr) (before : Line) (others : List LineRef) : State :=
  if stoodStill before (s.line before.ref) then s.offSlot before.ref
  else
    let cost := issueCost i before (s.line before.ref)
    let mid := match s.line before.ref with | some m => midway before m | none => false
    let mem : LaneMem := { core := before.core, lane := before.lane, cycle := s.laneCycle before.core before.lane + cost, last := before.slot, lastRef := some before.ref, mid }
    let kept := s.keepsLine before
    let yields := match i with | .yield => true | _ => false
    { s with
      lanes := mem :: s.lanes.filter fun (m : LaneMem) => !(decide (m.core = before.core) && decide (m.lane = before.lane))
      lines := s.lines.map fun (m : Line) =>
        if m.core = before.core ∧ m.lane = before.lane then
          (if m.ref = before.ref then { m with waited := 0, starved := false, yielded := m.yielded && yields }
           else if m.isStarved || (if kept then decide (0 < m.waited) else others.contains m.ref) then
             { m with waited := m.waited + cost, starved := m.isStarved, yielded := false }
           else { m with waited := 0, yielded := false })
        else m }

/-- A line issues its next instruction; `others` are the lines of its lane that were eligible and not chosen. -/
def State.runLine (s : State) (l : Line) (others : List LineRef) : Out :=
  let t := s.prepare l
  match t.wordOf l.ref, t.line l.ref with
  | some w, some m => mapNext (fun u => u.noteIssue (instrOf w) m others) (exec (instrOf w) t)
  | _, _ => .next s

/-! ### Eligibility and choice -/

/-- Whether the line would get further if it issued: its next thread can issue (R27, R33), or it begins a walk or to wait for a granule. -/
def State.goesOn (s : State) (l : Line) : Bool :=
  match s.runLine l [] with
  | .next t => !stoodStill l (t.line l.ref) || decide (t.walks ≠ s.walks) || decide (t.waitQ ≠ s.waitQ)
  | _ => true

/-- Whether a line's set lets it issue: it is resident, or it is being pre-empted while the line stands inside a run or a block (R56, R249,
R379). -/
def State.setRuns (s : State) (l : Line) : Bool :=
  match s.cset (setOf l.ref) with
  | some c => decide (c.phase = .resident) || (decide (c.phase = .stopping) && (l.takeRun.isSome || l.bv))
  | none => false

/-- Whether the line may issue (R33, R41, R379): its set lets it, its word is there, and its next thread, or what it is parked for, is
ready: trying takes it further. (DEDUCED, assumption 10.) -/
def State.eligible (s : State) (l : Line) : Bool :=
  s.setRuns l && ((s.prepare l).wordOf l.ref).isSome &&
  (match l.status with
   | .ready => s.goesOn l
   | .wait w => !w.byEvent && s.goesOn l
   | _ => false)

/-- The element that a strict order puts first. -/
def firstBy {α : Type} (lt : α → α → Bool) : List α → Option α
  | [] => none
  | a :: r => match firstBy lt r with | none => some a | some b => if lt b a then some b else some a

/-- Residency slots in the order after slot n, wrapping. -/
def slotRank (n slot : Nat) : Nat := (slot + 7 - n) % 8

/-- A line that has not ended, resident or in a saved image: one that was pre-empted has not ended (R34). -/
def State.lineOrSaved (s : State) (r : LineRef) : Option Line :=
  ((s.lines ++ (s.grids.map fun g => (g.images.map Image.lines).flatten).flatten).find? fun l => decide (l.ref = r)).filter fun l => decide (l.status ≠ .ended)

/-- The line that the slot chooses among those that are eligible (R34 to R37). (DEDUCED, assumption 12.) -/
def State.choose (s : State) (core lane : Nat) (els : List Line) : Option Line :=
  let all := (s.laneLines core lane).filter s.isIn
  let mem := s.laneMem core lane
  let last := match mem with | some m => m.last | none => 7
  let lastLine := (mem.bind LaneMem.lastRef).bind s.lineOrSaved
  let bySlot (a b : Line) : Bool := decide (a.slot < b.slot)
  let after (a b : Line) : Bool := decide (slotRank last a.slot < slotRank last b.slot)
  let older (a b : Line) : Bool := decide (a.age < b.age) || (decide (a.age = b.age) && decide (a.slot < b.slot))
  let longer (a b : Line) : Bool := decide (b.waited < a.waited) || (decide (a.waited = b.waited) && decide (a.slot < b.slot))
  let starved := els.filter Line.isStarved
  let inside := if (match mem with | some m => m.mid | none => false) then lastLine.bind fun l => els.find? fun (m : Line) => decide (m.ref = l.ref) else none
  let policy := match lastLine with
    | some l => l.policy
    | none => match firstBy bySlot all with | some l => l.policy | none => 0
  let others := els.filter fun (l : Line) => !l.yielded
  let pool := if others.isEmpty then els else others
  let greedy := lastLine.bind fun l => pool.find? fun (m : Line) => decide (m.ref = l.ref) && !m.yielded
  match inside.or (firstBy longer starved) with
  | some l => some l
  | none =>
    if policy = 0 then (match greedy with | some l => some l | none => firstBy older els)
    else if policy = 1 then firstBy after pool
    else (match greedy with | some l => some l | none => firstBy after pool)

/-- The line that a lane's slot issues from now, and the other eligible lines. -/
def State.pick (s : State) (core lane : Nat) : Option (Line × List LineRef) :=
  let els := (s.laneLines core lane).filter s.eligible
  (s.choose core lane els).map fun l => (l, (els.filter fun (m : Line) => decide (m.ref ≠ l.ref)).map Line.ref)

/-- The write of a first block is made before its lane's next issue, so that the slot may go on with the second block, which may follow the
first one's reads at once (R34, R249). -/
def State.betweenBlocks (s : State) (core lane : Nat) : State :=
  match s.laneMem core lane with
  | some m =>
    match m.lastRef with
    | some r => if m.mid then (match execBlockWrite r s with | .next t => t | _ => s) else s
    | none => s
  | none => s

/-- A selection point at which no line of the lane is eligible: the slot goes on with none, and none has been eligible at every selection
point (R34, R35, R36); one that is starved stays so. -/
def State.noneChosen (s : State) (core lane : Nat) : State :=
  { s with
    lanes := upd (fun m => decide (m.core = core) && decide (m.lane = lane)) (fun m => { m with mid := false }) s.lanes
    lines := upd (fun l => decide (l.core = core) && decide (l.lane = lane) && !l.isStarved) (fun l => { l with waited := 0 }) s.lines }

/-- One issue of a lane's slot; with no eligible line it issues nothing (R35). -/
def State.issueSlot (s : State) (core lane : Nat) : Out :=
  let s := s.betweenBlocks core lane
  match s.pick core lane with
  | some (l, others) => s.runLine l others
  | none => .next (s.noneChosen core lane)

/-! ### What happens next -/

/-- CXL.mem writes whose completion time has come are answered (R180). (DESIGN CHOICE, assumption 73: in the first step that may.) -/
def State.answerCxl (s : State) : State :=
  let due (w : Nat × List TabRef) : Bool := decide (w.1 ≤ s.time) && s.tabDone w.2
  { s with cxlWait := s.cxlWait.filter fun w => !due w, cxlDone := s.cxlDone + s.cxlWait.countP due }

/-- Ticks pass: a tick that ends takes the flits that came in it (R340), committed tables reach their hold points and epochs, slots begin and are
missed (R339, R345, R382, R432), commands of the attestation engine end (R416), and CXL.mem writes are answered. -/
def State.pass (s : State) (ticks : Nat) : State := (State.passTo (s.time + ticks) ticks (if ticks = 0 then s else s.endTick.endCommands)).answerCxl

/-- An act of the schedule. Instruction words issue through a lane only. -/
def State.act (s : State) : Act → Out
  | .issue core lane => s.issueSlot core lane
  | .event i => if i.isWord || (match i with | .illegalInstruction _ => true | _ => false) then .next s else exec i s

/-- The place of an access's requester among those of one cycle (R179): lines in ascending (core, lane, line, thread), whose core numbers count
through both dies, the array's drain path, copy queues, the host link, the network units. -/
def State.requesterOf (s : State) (a : Access) : List Nat :=
  match a.issuer with
  | .line r j => match s.line r with | some l => [1, l.core, l.lane, l.slot, j] | none => [1, a.core]
  | .drain core _ => [2, core]
  | .copy core queue _ => [3, core, queue]
  | .host => [4]
  | .net die => [5, die]

/-- The requester of an act whose requests R47, R150 and R179 order within a cycle: an issue slot, an access that is performed, an engine, the
host link, a port of a network unit. -/
def State.requester (s : State) (a : Act) : Option (List Nat) :=
  match a with
  | .issue core lane => some [0, core, lane]
  | .event i =>
    match i with
    | .slicePerform id | .releasePerform id => (s.flight.find? fun a => decide (a.id = id)).map s.requesterOf
    | .drainOperation core | .mmasOperation core => some [2, core]
    | .copyElement core queue => some [3, core, queue]
    | .hostWrite .. | .hostRead .. => some [4]
    | .write n | .maskedWrite n | .readRequest n | .atomic n | .reductionContribution n => s.arrivals[n]?.map fun x =>
        [5, x.2.die, match x.2.port with | some p => p + 1 | none => 0]
    | _ => none

/-- Whether requester b may follow requester a in one cycle. -/
def ascending : List Nat → List Nat → Bool
  | [], _ => true
  | _ :: _, [] => false
  | a :: as, b :: bs => decide (a < b) || (decide (a = b) && ascending as bs)

/-- The requests of one cycle come in ascending order of their requesters (R47, R150, R179): an act that would come after a later requester's does
not happen in this cycle. The state holds the cycle's last requester. -/
def State.inOrder (s : State) (a : Act) : Option State :=
  match s.requester a with
  | none => some s
  | some r => if ascending s.inCycle r then some { s with inCycle := r } else none

/-- The state in which an entry of the schedule acts: its ticks have passed, and a cycle has begun unless it shares that of the entry before. -/
def State.begin (s : State) (e : Sched) (rest : List Sched) : State :=
  { s with schedule := rest, quantum := e.threads, inCycle := if e.same && decide (e.ticks = 0) then s.inCycle else [] }.pass e.ticks

/-- The steps that a line's state may let an engine take. -/
def lineEvents (s : State) (l : Line) : List Instr :=
  match l.status with
  | .wait (.mma _) => [.mmaIssue l.ref]
  | .wait (.block _) => [.blockWrite l.ref]
  | .wait (.fence _) | .wait (.qfence _) | .wait .ifence | .wait (.scall _) => [.fenceComplete l.ref]
  | .trapped => [.pendingBitSet l.handle]
  | st => if st.fetches && ((s.prepare l).wordOf l.ref).isNone then [.instructionFetch l.ref] else []

/-- The steps that the package's own units may take. -/
def State.internal (s : State) : List Instr :=
  (s.lines.map (lineEvents s)).flatten ++ s.sysRecs.map (fun r => .pendingBitSet r.record.handle) ++
  (s.flight.map fun a => [Instr.writeConfirmed a.id, .slicePerform a.id, .releasePerform a.id, .acknowledgementReturn a.id, .loadReturn a.id]).flatten ++
  (s.bankQ.map fun q => [Instr.bankServe ((s.cset q.set).map CSet.core |>.getD 0) (CSet.bankOf q.off), .releasePerform q.id]).flatten ++
  s.walks.map (fun w => .walk w.id) ++
  s.runs.map (fun m => .mmaComplete m.set) ++ s.loads.map (fun b => .mloadbComplete b.set) ++ s.matQ.map (fun o => .matrixQueueEffect o.core) ++
  (s.drainQ.map fun o => [Instr.drainOperation o.core, .mmasOperation o.core]).flatten ++
  (s.copyQ.map fun o => [Instr.copyStart o.core o.queue, .copyElement o.core o.queue, .copyComplete o.core o.queue]).flatten ++
  (s.fab.sendQ.map fun e => Instr.releasePerform e.id) ++
  ((List.range s.arrivals.length).map fun n => [Instr.write n, .maskedWrite n, .readRequest n, .readCompletion n, .atomic n, .atomicResult n,
    .reductionContribution n, .acknowledgement n, .refusal n, .reservedTypePacket n, .holdExpiry n]).flatten ++
  (s.fab.sendQ.map fun e => [Instr.drainMarkerAck e.id, .resend e.id]).flatten ++
  (s.queues.map fun q => [Instr.packetRead q.1, .dependenceRead q.1, .dependencePoll q.1, .startTimestamp q.1, .signalPacket q.1]).flatten ++
  [.placement 0, .placement 1] ++
  (s.sets.map fun c => [Instr.linesResident c.ref, .contextSave c.ref, .contextRestore c.ref]).flatten ++
  (s.grids.map fun g => [Instr.completionRecord g.id, .completionSignal g.id]).flatten ++
  (List.range 8).flatMap fun p => [Instr.hostCxrd p, .hostCxwr p, .hostLresume p, .hostSpreempt p, .hostQctl p]

/-- The lanes that hold lines, those that have never issued first and then the one whose last issue lies furthest back
(`noteIssue` puts a lane that issues at the head of `lanes`). -/
def State.busyLanes (s : State) : List (Nat × Nat) :=
  let ls := (s.lines.map fun l => (l.core, l.lane)).eraseDups
  let seen := (s.lanes.map fun m => (m.core, m.lane)).reverse
  ls.filter (fun x => !seen.contains x) ++ seen.filter fun x => ls.contains x

/-- What happens when the schedule says nothing: the first step of the package's own units that changes anything, or else an
issue of the first lane that can issue, or else nothing. (DESIGN CHOICE, assumption 1.) -/
def State.unscheduled (s : State) : Out :=
  match s.internal.find? fun i => match exec i s with | .next t => decide (t ≠ s) | _ => true with
  | some i => exec i s
  | none =>
    match s.busyLanes.find? fun x => (s.pick x.1 x.2).isSome with
    | some x => s.issueSlot x.1 x.2
    | none => .next s

/-- A grid was abandoned in the step: the packet after it in its queue becomes dispatchable in this tick, when nothing else holds it (R392). -/
def State.afterAbandon (before after : State) : State :=
  let gone (g : Grid) : Bool := decide (g.state = .abandoned) && before.grids.any fun h => decide (h.id = g.id) && decide (h.state ≠ .abandoned)
  let qs := (after.grids.filter gone).map Grid.queue
  (after.grids.filter fun (g : Grid) => qs.contains g.queue && decide (g.state = .waiting)).foldl State.dispatchOne after

/-- What follows every step in its own tick: faults whose earlier writes are confirmed are taken (R55), answers to writes of page tables leave (R405), watched words are read again (R391),
packets behind an abandoned grid go on, and what comes to wait on a tag in one is cancelled. -/
def State.settle (before after : State) : State := (before.afterAbandon after).cancelWaiting.takeFaults.sendLate.readWatches

/-- One step: the head of the schedule after its ticks, or one tick and what then happens by itself. (DESIGN CHOICE, assumption 56.) -/
def State.advanceOne (s : State) : Out :=
  match s.schedule with
  | e :: rest =>
    let t := s.begin e rest
    mapNext s.settle (match t.inOrder e.act with | some u => u.act e.act | none => .next t)
  | [] => mapNext s.settle ({ s with quantum := 0, inCycle := [] }.pass 1).unscheduled

/-! ### Placing a word where the next step fetches it -/

/-- A grid of one set of one line, as a launch packet of a supervisor queue would make it, with number n. -/
def wordGrid (n : Nat) : Grid :=
  { id := n, part := 0, queue := 0, sup := true, pkt := (Vector.replicate 32 0).setIfInBounds 0 0x20001, state := .dispatchable,
    errc := 0, count := 1, next := 1, ended := 0, killed := 0, tread := 0, tfirst := 0, dispTick := 0, lastG := 0, depMet := true,
    depG := 0, images := [] }

/-- Its set, with a window of 64 KiB on core 0. -/
def wordSet (n : Nat) : CSet := CSet.launch { grid := n, set := 0 } 0 0x10000 1

/-- Its line, on lane 0 of core 0: 32 threads, 32 x registers, 16 k registers, 16 ports, at pc 0. -/
def wordLine (n : Nat) : Line :=
  { Line.launch { grid := n, set := 0, line := 0 } 32 32 16 with pl := true, nports := 16 }

/-- The instruction word stands in the instruction cache of core 0, at the pc of a line that its lane 0 issues from next. (DESIGN CHOICE, assumption 8.) -/
def State.placeWord (s : State) (w : Word) : State :=
  let n := s.nextId
  { (s.fillCode 0 0 0 (bytesOf w.toNat 4 ++ List.replicate 124 0)) with
    nextId := n + 1
    grids := s.grids ++ [wordGrid n]
    sets := s.sets ++ [wordSet n]
    lines := (s.lines.filter fun (l : Line) => !(decide (l.core = 0) && decide (l.lane = 0))) ++ [wordLine n]
    lanes := s.lanes.filter fun (m : LaneMem) => !(decide (m.core = 0) && decide (m.lane = 0))
    schedule := [{ ticks := 0, act := .issue 0 0 }] }

end Sys2Proof.Machine
end

