-- ==== Sys2Proof/WellFormed.lean ====
section
/-!
DEFINITION. Well-formed terms of `Instr`: those that some instruction word encodes (R62, R201, R205, R206, R246), and the steps
whose numbers name objects that the machine has (R13, R14, R150, R161, R330, R386, R412).
-/
namespace Sys2Proof

/-- A source of a major that has no k-selector (R205). -/
def Src.noK : Src → Bool
  | .k _ => false
  | _ => true

/-- The release scope of a store, when it has one: the sub field names set, hall, device or domain (R206). -/
def relOk : Option Scope → Bool
  | some .line => false
  | _ => true

/-- .sx stands with .b and .h only (R206). -/
def sxOk (wd : Width) (sx : Bool) : Bool :=
  !sx || (match wd with | .b | .h => true | _ => false)

/-- A destination type of CVT: codes 0x00 to 0x0B (R246). -/
def cvtOk (t : Ty) : Bool := decide (t.code < 12)

def partOk (p : Nat) : Bool := decide (p < 8)
def portOk (p : Nat) : Bool := decide (p < 16)
def hwQueueOk (q : Nat) : Bool := decide (q < 1024)
def dieOk (d : Nat) : Bool := decide (d < 2)
def coreOk (c : Nat) : Bool := decide (c < 160)

/-- Well-formedness. -/
def Instr.wf : Instr → Bool
  | .cvt t _ a => cvtOk t && a.noK
  | .qcvtE4m3 _ a | .qcvtE5m2 _ a | .mov _ a => a.noK
  | .qcvtI8 _ a b | .qcvtI4 _ a b | .qrange _ _ a b => a.noK && b.noK
  | .mode imm => modeOk imm.toNat
  | .lds _ wd sx _ _ _ | .ldgal _ wd sx _ _ _ | .ldg _ wd sx _ _ _ | .ldp _ wd sx _ _ _ => sxOk wd sx
  | .sts rel _ _ _ _ _ | .stgal rel _ _ _ _ _ | .stg rel _ _ _ _ | .stp rel _ _ _ _ => relOk rel
  | .matrixQueueEffect c | .drainOperation c | .mmasOperation c => coreOk c
  | .bankServe c b => coreOk c && decide (b < 32)
  | .leaseExpiry c _ | .l1Evict c _ => coreOk c
  | .copyStart c q | .copyElement c q | .copyComplete c q => coreOk c && decide (q < 4)
  | .slotStart p | .holdPoint p | .darkPhase p | .tableEpoch p => partOk p
  | .flitSend p | .relockFailure p | .portModeSwitch p => portOk p
  | .flitReceive p bs => portOk p && decide (bs.length = 256)
  | .keySwitch p peer => partOk p && decide (peer < 8192)
  | .tailWrite q _ | .errClear q | .packetRead q | .dependenceRead q | .dependencePoll q | .startTimestamp q | .signalPacket q =>
    hwQueueOk q
  | .placement d => dieOk d
  | .hostCxrd p | .hostCxwr p | .hostLresume p | .hostSpreempt p | .hostQctl p | .cmdopInvalid p _ => partOk p
  | .frenWrite p _ | .kbindWrite p _ | .pmodeWrite p _ | .penWrite p _ | .registerWrite p _ _ _ => partOk p
  | .extend p _ | .quote p _ | .newkey p _ | .agree p _ | .revoke p _ | .cert p _ => partOk p
  | _ => true

end Sys2Proof
end

