-- ==== Sys2Proof/Safety.lean ====
section
/-!
DEFINITION. The terms in which claims about runs are stated: when a step completes, which line issues, which operands can be read
at once, and what a register-only instruction leaves.
-/
namespace Sys2Proof.Machine

/-- A step goes on: it answers a next state. -/
def Completes (o : Out) : Prop := ∃ t, o = .next t

/-- A run of `n` steps from `s` is safe when none of them stops the machine. -/
def SafeFor (n : Nat) (s : State) : Prop := Completes (Sys2Proof.core.run n s)

/-- `l` is the line that an instruction word acts on. -/
abbrev Issues (s : State) (l : Line) : Prop := s.cur = some l.ref ∧ s.line l.ref = some l

/-- `l` is the line that an instruction word acts on, and the instruction's threads issue one after another with no other lane
between them (R33). -/
abbrev IssuesAll (s : State) (l : Line) : Prop := Issues s l ∧ s.quantum = 0

/-- A source that needs no port and no tap. -/
def plain : Src → Bool
  | .x _ | .k _ => true
  | _ => false

/-- The value of a plain source for thread j. -/
def plainVal (l : Line) (j : Nat) (dbl : Bool) : Src → DWord
  | .x n => if dbl then l.xd j n else (l.x j n).setWidth 64
  | .k n => if dbl then l.kd n else (l.kr n).setWidth 64
  | _ => 0

/-- No load is outstanding to these registers, and none has failed. -/
abbrev readyRegs (l : Line) (xs ks : List Nat) : Prop :=
  (∀ p ∈ l.pend, p.2 ∉ xs) ∧ (∀ n ∈ ks, n ∉ l.kpend) ∧ (∀ f ∈ l.failed, f.2.1 ∉ xs)

/-- A thread with a 32-bit result in x(n), or a 64-bit result in the pair {x(n + 1), x(n)}; x0 discards it (R59). -/
def Thread.put (t : Thread) (dbl : Bool) (n : Nat) (v : DWord) : Thread :=
  if n = 0 then t
  else if dbl then { t with x := (t.x.setIfInBounds n (v.setWidth 32)).setIfInBounds (n + 1) ((v >>> 32).setWidth 32) }
  else { t with x := t.x.setIfInBounds n (v.setWidth 32) }

/-- A thread with a result in its register and the raised exceptions in its fpst (R66). -/
def Thread.result (t : Thread) (dbl : Bool) (n : Nat) (r : Res) : Thread :=
  { t.put dbl n r.v with fpst := t.fpst ||| fpstFlags r.fl }

/-- A thread with a predicate written; p0 discards it (R59). -/
def Thread.putP (t : Thread) (n : Nat) (v : Bool) : Thread := if n = 0 then t else { t with p := setBit8 t.p n v }

/-- The line after a per-thread instruction that changes nothing but its threads. -/
def Line.afterThreads (l : Line) (f : Nat → Thread → Thread) : Line :=
  { l.next with
    takeRun := none
    threads := l.threads.mapIdx fun j t => if j ∈ l.issueThreads then f j t else t }

/-- The state after an instruction that changes nothing but its line; an open `.take` run ends (R153). -/
def State.afterLine (s : State) (l l' : Line) : State := (s.endRun l).setLine l'

/-- `i` completes on line `l`: every thread of the issue mask is changed by `F`, and nothing else changes. -/
def ThreadsTo (i : Instr) (s : State) (l : Line) (F : Nat → Thread → Thread) : Prop :=
  exec i s = .next (s.afterLine l (l.afterThreads F))

/-- A line-uniform `i` completes: the line goes on as `l'`, and nothing else changes. -/
def LineTo (i : Instr) (s : State) (l l' : Line) : Prop :=
  exec i s = .next (s.afterLine l { l'.next with takeRun := none })

/-- Two sources on registers, declared and ready (R27, R38, R59). -/
abbrev plainAB (l : Line) (a b : Src) : Prop :=
  plain a = true ∧ plain b = true ∧ l.okSrc false l.ty.dbl a = true ∧ l.okSrc true l.ty.dbl b = true ∧
  readyRegs l (a.xregs l.ty.dbl ++ b.xregs l.ty.dbl) (a.kregs l.ty.dbl ++ b.kregs l.ty.dbl)

/-- The operands of a two-source compute instruction on registers, all of them declared and ready (R27, R38, R59). -/
abbrev plain2 (l : Line) (n : Fin 32) (a b : Src) : Prop :=
  plain a = true ∧ plain b = true ∧ l.okX l.ty.dbl n = true ∧ l.okSrc false l.ty.dbl a = true ∧ l.okSrc true l.ty.dbl b = true ∧
  readyRegs l (a.xregs l.ty.dbl ++ b.xregs l.ty.dbl ++ regs l.ty.dbl n) (a.kregs l.ty.dbl ++ b.kregs l.ty.dbl)

/-- What the checks of a two-source compute instruction rest on: whether the line has its operands and takes its TYPE, the x and k registers that a
thread reads or writes, and the exceptions that a thread raises. -/
structure TwoSource where
  i : Instr
  ok : Bool
  types : Bool
  xs : List Nat
  ks : List Nat
  fl : Nat → Flags

/-- The two-source compute instructions of line l on these fields (R231, R235 to R237, R239 to R244). -/
def Line.twoSources (l : Line) (d : Fld) (a b : Src) (p : Fin 8) (inv : Bool) (c : Cmp) (f : FCmp) : List TwoSource :=
  let w := l.ty.dbl
  let A (j : Nat) : DWord := plainVal l j w a
  let B (j : Nat) : DWord := plainVal l j w b
  let D (j : Nat) : DWord := if w then l.xd j d.num else (l.x j d.num).setWidth 64
  let fma (sub : Bool) (j : Nat) : Flags := (applyF (arith fun f rm x y z => fmaFV f rm x y z sub) l j (A j) (B j) (D j)).fl
  let value (v : DWord) : FV := l.ty.fmt.value (ftzIn l.ty.fmt l.ftz (lowCode l.ty v))
  let srcs (bw : Bool) : Bool := l.okSrc false w a && l.okSrc true bw b
  let form (ok types bw : Bool) (ds : List Nat) (x : Instr × (Nat → Flags)) : TwoSource :=
    { i := x.1, ok := ok && srcs bw, types, xs := a.xregs w ++ b.xregs bw ++ ds, ks := a.kregs w ++ b.kregs bw, fl := x.2 }
  let quiet (is : List Instr) : List (Instr × (Nat → Flags)) := is.map fun i => (i, fun _ => 0)
  (quiet [.add d a b, .sub d a b, .mul d a b, .mulhi d a b, .min d a b, .max d a b, .sad d a b]).map
      (form (l.okDst w d) (intTypes l) w (d.xregs w)) ++
  (quiet [.and d a b, .or d a b, .xor d a b, .andn d a b, .orn d a b, .xnor d a b]).map (form (l.okDst w d) (logicTypes l) w (d.xregs w)) ++
  (quiet [.shl d a b, .shr d a b, .sra d a b, .rotl d a b]).map (form (l.okDst w d) (logicTypes l) false (d.xregs w)) ++
  (quiet [.sel inv p d a b]).map (form (l.okDst w d) true w (d.xregs w)) ++
  [(.fadd d a b, fun j => (fBin addFV l j (A j) (B j)).fl), (.fsub d a b, fun j => (fBin subFV l j (A j) (B j)).fl),
    (.fmul d a b, fun j => (fBin mulFV l j (A j) (B j)).fl), (.fmin d a b, fun j => (applyF (fMm false) l j (A j) (B j) 0).fl),
    (.fmax d a b, fun j => (applyF (fMm true) l j (A j) (B j) 0).fl), (.fsgnj d a b, fun _ => 0)].map
      (form (l.okDst w d) (arithTypes l) w (d.xregs w)) ++
  [(.ffma d a b, fma false), (.ffms d a b, fma true)].map (form (l.okXf w d) (arithTypes l) w (d.xregs w)) ++
  (quiet [.icmp c d a b]).map (form (okPred d) (intTypes l) w []) ++
  [(.fcmp f d a b, fun j => (fcmpOf f (value (A j)) (value (B j))).2)].map (form (okPred d) (arithTypes l) w [])

/-- No thread of the issue mask enables an exception that it raises (R66). -/
abbrev quietFlags (l : Line) (fl : Nat → Flags) : Prop := ∀ j ∈ l.issueThreads, enabledOf (l.fpst j) (fl j) = 0

/-- Device memory and host memory are in canonical form. -/
abbrev State.memWf (s : State) : Prop :=
  Memory.wf s.dev = true ∧ Memory.wf s.hostMem = true

end Sys2Proof.Machine
end

