-- ==== Sys2Proof/Certificates/Slice0/Obligations.lean ====
section
/-!
DEFINITION. The statements of this row: what instructions and the steps of the machine's engines do, where they complete, what they
leave unchanged, and what holds of every step.
-/

open Sys2Proof Sys2Proof.Machine

/-! ## Compute instructions on registers (09_isa_compute.md)

`ThreadsTo i s l F` says that `exec i s` answers the next state in which the threads of the issue mask of the issuing line l are
changed by F, the line's pc, tri and tap carry are those of its next instruction, and nothing else of the machine differs. -/

/-- R27, R55, R66, R211: what a two-source compute instruction (INT, LOGIC with the shifts, SEL, FARITH with FFMA and FFMS, ICMP, FCMP) does
before it has an effect, shown by the first thread of its issue mask. An operand that the line does not have, then a TYPE that the instruction does
not take, faults before any thread issues; a register whose load has not returned makes the line wait at its thread, an x register before a k register;
an enabled exception that the thread raises on register operands faults there, with the enabled ones in CODE. -/
def Obligations.ChecksComeFirst : Prop :=
  ∀ (s : State) (l : Line) (d : Fld) (a b : Src) (p : Fin 8) (inv : Bool) (c : Cmp) (f : FCmp), Issues s l → s.unconfirmed l.ref = false →
    l.tri = 0 → ∀ t ∈ l.twoSources d a b p inv c f,
      let faults (e : FaultInfo) (j : Nat) : Prop := exec t.i s = .next (s.trapEntry l e l.pc j l.pc (iword t.i) j)
      (t.ok = false → faults { cls := 0x03 } 0) ∧
      (t.ok = true → t.types = false → faults { cls := 0x01 } 0) ∧
      (t.ok = true → t.types = true → ∀ (j : Nat) (js : List Nat), l.issueThreads = j :: js →
        (∀ m, l.pendingX j t.xs = some m → exec t.i s = .next (s.park l (.reg j m) j)) ∧
        (∀ m, l.pendingX j t.xs = none → l.pendingK t.ks = some m → exec t.i s = .next (s.park l (.kreg m) j)) ∧
        (plain a = true → plain b = true → readyRegs l t.xs t.ks → enabledOf (l.fpst j) (t.fl j) ≠ 0 →
          faults { cls := 0x1E, code := (enabledOf (l.fpst j) (t.fl j)).toNat } j))

/-- R102: an integer result saturates under ISAT and wraps to n bits otherwise. -/
def IntResultWrapsOrSaturates : Prop :=
  ∀ (v : Int) (n : Nat), 0 < n →
    intResult true v n true = max (-2 ^ (n - 1)) (min (2 ^ (n - 1) - 1) v) ∧
    intResult true v n false = max 0 (min (2 ^ n - 1) v) ∧
    (∀ sg, ∃ q : Int, intResult false v n sg = v + q * 2 ^ n) ∧
    (-2 ^ (n - 1) ≤ intResult false v n true ∧ intResult false v n true < 2 ^ (n - 1)) ∧
    (0 ≤ intResult false v n false ∧ intResult false v n false < 2 ^ n)

/-- R231, on registers: each thread of the issue mask writes the minor's r, computed on A and B, to d; no flag is raised. -/
def IntInstructionsWriteTheirResults : Prop :=
  ∀ (s : State) (l : Line) (n : Fin 32) (a b : Src), IssuesAll s l → intTypes l = true →
    let gives (i : Instr) (b : Src) (r : Int → Int → Int) : Prop := ThreadsTo i s l fun j t =>
      t.put l.ty.dbl n (intPut l.ty (r (intVal l.ty (plainVal l j l.ty.dbl a)) (intVal l.ty (plainVal l j l.ty.dbl b))))
    (plain2 l n a b →
      gives (.add (.r n) a b) b (fun x y => l.intResult (x + y)) ∧ gives (.sub (.r n) a b) b (fun x y => l.intResult (x - y)) ∧
      gives (.mul (.r n) a b) b (fun x y => l.intResult (x * y)) ∧ gives (.mulhi (.r n) a b) b (fun x y => (x * y) / 2 ^ l.ty.bits) ∧
      gives (.min (.r n) a b) b (fun x y => min x y) ∧ gives (.max (.r n) a b) b (fun x y => max x y) ∧
      gives (.sad (.r n) a b) b (fun x y => l.intResult |x - y|)) ∧
    (plain2 l n a noB → gives (.abs (.r n) a) noB fun x _ => l.intResult |x|)

/-- R33, R34: when other lanes come between the threads of an instruction, the line stands ready before its next thread, and the
instruction ends from there as it would have ended without them. -/
def ThreadsMayBeInterrupted : Prop :=
  ∀ (s : State) (l : Line) (n : Fin 32) (a b : Src) (k : Nat) (ks : List Nat), Issues s l → intTypes l = true → plain2 l n a b →
    0 < s.quantum → l.issueThreads.drop s.quantum = k :: ks →
    ∀ i ∈ [Instr.add (.r n) a b, .sub (.r n) a b, .mul (.r n) a b, .mulhi (.r n) a b, .min (.r n) a b, .max (.r n) a b, .sad (.r n) a b],
      ∃ t m, exec i s = .next t ∧ t.line l.ref = some m ∧ m.pc = l.pc ∧ m.tri = k ∧ m.status = .ready ∧
        exec i { t with quantum := 0 } = exec i { s with quantum := 0 }

/-- The integer instructions on registers: how a result is brought to its type, and what they write. -/
def Obligations.IntegerResults : Prop := IntResultWrapsOrSaturates ∧ IntInstructionsWriteTheirResults ∧ ThreadsMayBeInterrupted

/-- R235, on registers: each thread of the issue mask writes the n-bit result of the minor; the shift amount is the whole 32-bit
value of field b. -/
def LogicInstructionsWriteTheirResults : Prop :=
  ∀ (s : State) (l : Line) (n : Fin 32) (a b : Src), IssuesAll s l → logicTypes l = true →
    let t := logicTy l.ty
    let w := t.bits
    let gives (i : Instr) (r : Nat → BitVec w) : Prop := ThreadsTo i s l fun j th => th.put l.ty.dbl n (patPut t (r j).toNat)
    let x (j : Nat) : BitVec w := (plainVal l j l.ty.dbl a).setWidth w
    let y (j : Nat) : BitVec w := (plainVal l j l.ty.dbl b).setWidth w
    let sh (j : Nat) : Nat := (plainVal l j false b).toNat
    (plain2 l n a b →
      gives (.and (.r n) a b) (fun j => x j &&& y j) ∧ gives (.or (.r n) a b) (fun j => x j ||| y j) ∧
      gives (.xor (.r n) a b) (fun j => x j ^^^ y j) ∧ gives (.andn (.r n) a b) (fun j => x j &&& ~~~(y j)) ∧
      gives (.orn (.r n) a b) (fun j => x j ||| ~~~(y j)) ∧ gives (.xnor (.r n) a b) (fun j => ~~~(x j ^^^ y j))) ∧
    (plain a = true → plain b = true → l.okX l.ty.dbl n = true → l.okSrc false l.ty.dbl a = true → l.okSrc true false b = true →
      readyRegs l (a.xregs l.ty.dbl ++ b.xregs false ++ regs l.ty.dbl n) (a.kregs l.ty.dbl ++ b.kregs false) →
      gives (.shl (.r n) a b) (fun j => x j <<< sh j) ∧ gives (.shr (.r n) a b) (fun j => x j >>> sh j) ∧
      gives (.sra (.r n) a b) (fun j => (x j).sshiftRight (sh j)) ∧ gives (.rotl (.r n) a b) (fun j => (x j).rotateLeft (sh j))) ∧
    (plain2 l n a noB →
      gives (.popc (.r n) a) (fun j => BitVec.ofNat w ((List.range w).countP fun i => (x j).getLsbD i)) ∧
      gives (.clz (.r n) a) (fun j => (x j).clz) ∧ gives (.brev (.r n) a) (fun j => (x j).reverse))

/-- R236, R237, R244: ICMP and FCMP write their condition to the predicate, FCMP with its flags; SEL writes A or B as its
predicate says. -/
def CompareAndSelect : Prop :=
  ∀ (s : State) (l : Line) (p q : Fin 8) (n : Fin 32) (c : Cmp) (f : FCmp) (inv : Bool) (a b : Src), IssuesAll s l →
    let A (j : Nat) := plainVal l j l.ty.dbl a
    let B (j : Nat) := plainVal l j l.ty.dbl b
    let v (w : DWord) : FV := l.ty.fmt.value (ftzIn l.ty.fmt l.ftz (lowCode l.ty w))
    (plainAB l a b →
      (intTypes l = true → ThreadsTo (.icmp c (.r (p.castLE (by decide))) a b) s l fun j t =>
        t.putP p (match c with
          | .eq => decide (intVal l.ty (A j) = intVal l.ty (B j)) | .ne => decide (intVal l.ty (A j) ≠ intVal l.ty (B j))
          | .lt => decide (intVal l.ty (A j) < intVal l.ty (B j)) | .le => decide (intVal l.ty (A j) ≤ intVal l.ty (B j))
          | .gt => decide (intVal l.ty (A j) > intVal l.ty (B j)) | .ge => decide (intVal l.ty (A j) ≥ intVal l.ty (B j)))) ∧
      (arithTypes l = true → quietFlags l (fun j => (fcmpOf f (v (A j)) (v (B j))).2) →
        ThreadsTo (.fcmp f (.r (p.castLE (by decide))) a b) s l fun j t =>
          { t.putP p (fcmpOf f (v (A j)) (v (B j))).1 with fpst := t.fpst ||| fpstFlags (fcmpOf f (v (A j)) (v (B j))).2 })) ∧
    (plain2 l n a b → ThreadsTo (.sel inv q (.r n) a b) s l fun j t => t.put l.ty.dbl n (if l.p j q != inv then A j else B j))

/-- The logical instructions, the compares and SEL on registers. -/
def Obligations.LogicAndCompare : Prop := LogicInstructionsWriteTheirResults ∧ CompareAndSelect

/-- R239 to R243, on registers: the results of FARITH with the flags that they raise, when none of them is enabled. -/
def FloatInstructionsWriteTheirResults : Prop :=
  ∀ (s : State) (l : Line) (n : Fin 32) (a b : Src), IssuesAll s l → arithTypes l = true →
    let A (j : Nat) := plainVal l j l.ty.dbl a
    let B (j : Nat) := plainVal l j l.ty.dbl b
    let D (j : Nat) : DWord := if l.ty.dbl then l.xd j n else (l.x j n).setWidth 64
    let gives (i : Instr) (r : Nat → Res) : Prop := quietFlags l (fun j => (r j).fl) → ThreadsTo i s l fun j t => t.result l.ty.dbl n (r j)
    (plain2 l n a b →
      gives (.fadd (.r n) a b) (fun j => fBin addFV l j (A j) (B j)) ∧ gives (.fsub (.r n) a b) (fun j => fBin subFV l j (A j) (B j)) ∧
      gives (.fmul (.r n) a b) (fun j => fBin mulFV l j (A j) (B j)) ∧
      gives (.ffma (.r n) a b) (fun j => applyF (arith fun f rm x y z => fmaFV f rm x y z false) l j (A j) (B j) (D j)) ∧
      gives (.ffms (.r n) a b) (fun j => applyF (arith fun f rm x y z => fmaFV f rm x y z true) l j (A j) (B j) (D j)) ∧
      gives (.fmin (.r n) a b) (fun j => applyF (fMm false) l j (A j) (B j) 0) ∧
      gives (.fmax (.r n) a b) (fun j => applyF (fMm true) l j (A j) (B j) 0) ∧
      gives (.fsgnj (.r n) a b) (fun j => applyF (signOp fun _ y => y) l j (A j) (B j) 0)) ∧
    (plain2 l n a noB →
      gives (.fabs (.r n) a) (fun j => applyF (signOp fun _ _ => false) l j (A j) 0 0) ∧
      gives (.fneg (.r n) a) (fun j => applyF (signOp fun x _ => !x) l j (A j) 0 0)) ∧
    (plain a = true → l.okX false n = true → l.okSrc false l.ty.dbl a = true →
      readyRegs l (a.xregs l.ty.dbl ++ [0, n.val]) (a.kregs l.ty.dbl) →
      ThreadsTo (.fclass (.r n) a) s l fun j t => t.put false n (BitVec.ofNat 64 (2 ^ fclassBit l.ty.fmt (lowCode l.ty (A j)))))

/-- R243: the one bit that the class of an operand sets in an FCLASS mask, by the fields of its code. -/
def FclassTable : Prop :=
  ∀ f ∈ [Fmt.f16, .bf16, .f32, .f64], ∀ (neg : Bool) (e fr : Nat), e < 2 ^ f.ebits → fr < 2 ^ f.fbits →
    fclassBit f ((if neg then f.signW else 0) + e * 2 ^ f.fbits + fr) =
      if e = 2 ^ f.ebits - 1 then
        (if fr = 0 then (if neg then 0 else 7) else if fr < 2 ^ (f.fbits - 1) then 8 else 9)
      else if e = 0 then
        (if fr = 0 then (if neg then 3 else 4) else (if neg then 2 else 5))
      else (if neg then 1 else 6)

/-- The floating-point instructions on registers, and the classes of FCLASS. -/
def Obligations.FloatResults : Prop := FclassTable ∧ FloatInstructionsWriteTheirResults

/-- R245, R246, R248, R253: SFU, CVT, the register forms of QCVT, and QRANGE. -/
def ConversionsWriteTheirResults : Prop :=
  ∀ (s : State) (l : Line) (n : Fin 32) (a b : Src), IssuesAll s l →
    let A (j : Nat) := plainVal l j l.ty.dbl a
    let B (j : Nat) := plainVal l j l.ty.dbl b
    let gives (i : Instr) (r : Nat → Res) : Prop := quietFlags l (fun j => (r j).fl) → ThreadsTo i s l fun j t => t.result l.ty.dbl n (r j)
    let sfuGives (i : Instr) (op : SfuOp) : Prop := gives i fun j =>
      let r := ftzOut .f32 l.ftz (sfu op (l.rmOf j) (Fmt.f32.value (ftzIn .f32 l.ftz ((A j).toNat % 2 ^ 32))))
      { v := BitVec.ofNat 64 r.1, fl := r.2 }
    (l.ty = .f32 → plain2 l n a noB →
      sfuGives (.rcp (.r n) a) .rcp ∧ sfuGives (.rsqrt (.r n) a) .rsqrt ∧ sfuGives (.exp2 (.r n) a) .exp2 ∧ sfuGives (.log2 (.r n) a) .log2 ∧
      sfuGives (.sin (.r n) a) .sin ∧ sfuGives (.cos (.r n) a) .cos ∧
      gives (.qcvtE4m3 (.r n) a) (fun j => qcvtF .e4m3 l j (A j) 0) ∧ gives (.qcvtE5m2 (.r n) a) (fun j => qcvtF .e5m2 l j (A j) 0)) ∧
    (l.ty = .f32 → plain2 l n a b →
      gives (.qcvtI8 (.r n) a b) (fun j => qcvtI 255 l j (A j) (B j)) ∧ gives (.qcvtI4 (.r n) a b) (fun j => qcvtI 15 l j (A j) (B j)) ∧
      (∀ i4 : Bool,
        let r (j : Nat) := qrange (Fmt.f32.value ((A j).toNat % 2 ^ 32)) (Fmt.f32.value ((B j).toNat % 2 ^ 32)) (if i4 then 15 else 255)
        quietFlags l (fun j => (r j).2.1) →
        let l' := l.afterThreads fun j t => t.result false n { v := (r j).1.setWidth 64, fl := (r j).2.1 }
        exec (.qrange i4 (.r n) a b) s = .next (s.afterLine l
          { l' with kstat := if l.issueThreads.any (fun j => (r j).2.2) then l.kstat ||| 0x20 else l.kstat }))) ∧
    (∀ t : Ty, t.code < 12 → l.ty ≠ .i8 → l.ty ≠ .i4 → plain a = true → l.okX t.dbl n = true → l.okSrc false l.ty.dbl a = true →
      readyRegs l (a.xregs l.ty.dbl ++ (0 :: regs t.dbl n)) (a.kregs l.ty.dbl) →
      quietFlags l (fun j => (cvtRes l.ty t (l.rmOf j) l.ftz l.isat (A j)).fl) →
      ThreadsTo (.cvt t (.r n) a) s l fun j th => th.result t.dbl n (cvtRes l.ty t (l.rmOf j) l.ftz l.isat (A j)))

/-- R252: SRND writes srnd of A, its format, the seed k(b) and the old d; a FP16 or BF16 code obeys FTZ. -/
def SrndWritesItsCode : Prop :=
  ∀ (s : State) (l : Line) (d a b : Fin 32), IssuesAll s l → l.ty = .f32 → l.okX false d = true → l.okX false a = true → l.okK false b = true →
    readyRegs l [d, a] [b] →
    let gives (i : Instr) (f : Fmt) : Prop :=
      let r (j : Nat) := let c := srnd (f32In l ((l.x j a).setWidth 64)) f (l.kr b) (l.x j d); if f.wide then ftzOut f l.ftz c else c
      quietFlags l (fun j => (r j).2) → ThreadsTo i s l fun j t => t.result false d { v := BitVec.ofNat 64 (r j).1, fl := (r j).2 }
    gives (.srndE4m3 (.r d) (.r a) (.r b)) .e4m3 ∧ gives (.srndE5m2 (.r d) (.r a) (.r b)) .e5m2 ∧ gives (.srndE2m1 (.r d) (.r a) (.r b)) .e2m1 ∧
    gives (.srndBf16 (.r d) (.r a) (.r b)) .bf16 ∧ gives (.srndF16 (.r d) (.r a) (.r b)) .f16

/-- The special functions, the conversions and the quantising instructions on registers. -/
def Obligations.ConversionResults : Prop := ConversionsWriteTheirResults ∧ SrndWritesItsCode

/-- R232, R233: the immediate forms on registers act on 32-bit words whatever TYPE says, and raise no flag. -/
def ImmediateFormsWriteTheirResults : Prop :=
  ∀ (s : State) (l : Line) (n m : Fin 32) (imm : BitVec 14) (sh : Fin 64) (up : BitVec 20), IssuesAll s l →
    (l.okX false n = true → l.okX false m = true → readyRegs l [m, 0, n] [] →
      let gives (i : Instr) (g : Word → Word) : Prop := ThreadsTo i s l fun j t => t.put false n ((g (l.x j m)).setWidth 64)
      gives (.addi (.r n) (.r m) imm) (· + imm.signExtend 32) ∧ gives (.andi (.r n) (.r m) imm) (· &&& imm.setWidth 32) ∧
      gives (.ori (.r n) (.r m) imm) (· ||| imm.setWidth 32) ∧ gives (.xori (.r n) (.r m) imm) (· ^^^ imm.setWidth 32) ∧
      gives (.shli (.r n) (.r m) sh) (· <<< sh.val) ∧ gives (.shri (.r n) (.r m) sh) (· >>> sh.val) ∧
      gives (.srai (.r n) (.r m) sh) (fun w => w.sshiftRight sh.val)) ∧
    (l.okX false n = true → readyRegs l [n] [] → ThreadsTo (.lui (.r n) up) s l fun _ t => t.put false n ((up ++ 0#12).setWidth 64))

/-- R255: the per-thread moves. -/
def MovesWriteTheirValues : Prop :=
  ∀ (s : State) (l : Line) (n m : Fin 32) (a : Src), IssuesAll s l →
    (plain2 l n a noB → ThreadsTo (.mov (.r n) a) s l fun j t => t.put l.ty.dbl n (plainVal l j l.ty.dbl a)) ∧
    (l.okX false n = true → readyRegs l [n] [] →
      ThreadsTo (.rdfp (.r n)) s l (fun j t => t.put false n ((l.fpst j).setWidth 64)) ∧
      ThreadsTo (.p2x (.r n)) s l (fun j t => t.put false n ((((l.thread j).p ||| 1).setWidth 32).setWidth 64)) ∧
      ThreadsTo (.rdtid .thread (.r n)) s l (fun j t => t.put false n (BitVec.ofNat 32 j |>.setWidth 64)) ∧
      ThreadsTo (.rdtid .line (.r n)) s l (fun _ t => t.put false n (BitVec.ofNat 32 l.ref.line |>.setWidth 64)) ∧
      ThreadsTo (.rdtid .set (.r n)) s l (fun _ t => t.put false n (BitVec.ofNat 32 l.ref.set |>.setWidth 64)) ∧
      (∀ c, s.cset (setOf l.ref) = some c →
        ThreadsTo (.rdtid .hall (.r n)) s l fun _ t => t.put false n (BitVec.ofNat 32 (l.ref.set - c.hall) |>.setWidth 64))) ∧
    (l.okX false n = true → l.okK false m = true → readyRegs l [n] [m] →
      ThreadsTo (.movxk (.r n) (.r m)) s l fun _ t => t.put false n ((l.kr m).setWidth 64)) ∧
    (l.okX false m = true → readyRegs l [m] [] →
      ThreadsTo (.wrfp (.r m)) s l (fun j t => { t with fpst :=
        (t.fpst &&& 0xFFFFE000) ||| (l.x j m &&& 0x1FF8) ||| (if 5 ≤ (l.x j m &&& 7).toNat then t.fpst &&& 7 else l.x j m &&& 7) }) ∧
      ThreadsTo (.x2p (.r m)) s l (fun j t => { t with p := (l.x j m).setWidth 8 ||| 1 }))

/-- The immediate forms and the moves of registers. -/
def Obligations.ImmediatesAndMoves : Prop := ImmediateFormsWriteTheirResults ∧ MovesWriteTheirValues

/-- R238, R233: KALU, ADDKI and LUIK write k(d); a write to k0 is discarded. -/
def KaluWritesItsResult : Prop :=
  ∀ (s : State) (l : Line) (d a b : Fin 32) (imm : BitVec 14) (up : BitVec 20), Issues s l → l.okK false d = true →
    let gives (i : Instr) (v : Word) : Prop := LineTo i s l (l.setK d v)
    let A := l.kr a
    let B := l.kr b
    (l.okK false a = true → l.okK false b = true → readyRegs l [] [d, a, b] →
      gives (.kadd (.r d) (.r a) (.r b)) (A + B) ∧ gives (.ksub (.r d) (.r a) (.r b)) (A - B) ∧ gives (.kmul (.r d) (.r a) (.r b)) (A * B) ∧
      gives (.kand (.r d) (.r a) (.r b)) (A &&& B) ∧ gives (.kor (.r d) (.r a) (.r b)) (A ||| B) ∧ gives (.kxor (.r d) (.r a) (.r b)) (A ^^^ B) ∧
      gives (.kshl (.r d) (.r a) (.r b)) (A <<< B.toNat) ∧ gives (.kshr (.r d) (.r a) (.r b)) (A >>> B.toNat) ∧
      gives (.ksra (.r d) (.r a) (.r b)) (A.sshiftRight B.toNat) ∧
      gives (.kmin (.r d) (.r a) (.r b)) (if A.slt B then A else B) ∧ gives (.kmax (.r d) (.r a) (.r b)) (if A.slt B then B else A)) ∧
    (l.okK false a = true → readyRegs l [] [d, a] → gives (.addki (.r d) (.r a) imm) (A + imm.signExtend 32)) ∧
    (readyRegs l [] [d] → gives (.luik (.r d) up) (up ++ 0#12))

/-- R59: x0 and k0 read zero and p0 reads true; a write to one of them leaves the line as it is, and the instruction goes on otherwise
(shown by MOV and KALU); an even register names a pair with the low word in it; an odd one that is named as a pair is the illegal-operand
fault (shown by MOV). -/
def FixedRegistersAndPairs : Prop :=
  (∀ (l : Line) (j : Nat) (v : Word) (w : DWord),
    l.x j 0 = 0 ∧ l.xd j 0 = 0 ∧ l.kr 0 = 0 ∧ l.kd 0 = 0 ∧ l.p j 0 = true ∧
    l.setX j 0 v = l ∧ l.setXd j 0 w = l ∧ l.setK 0 v = l ∧ l.setP j 0 false = l ∧
    ∀ n : Fin 32, n ≠ 0 → n.val % 2 = 0 → l.xd j n = l.x j (n + 1) ++ l.x j n ∧
      (j < l.threads.length → (l.setXd j n w).x j n = w.setWidth 32 ∧ (l.setXd j n w).x j (n + 1) = (w >>> 32).setWidth 32)) ∧
  (∀ (s : State) (l : Line) (n m : Fin 32), Issues s l → l.ty.dbl = true → l.tri = 0 → s.unconfirmed l.ref = false → n.val % 2 = 1 ∨ m.val % 2 = 1 →
    exec (.mov (.r n) (.x m)) s = .next (s.trapEntry l { cls := 0x03 } l.pc 0 l.pc (iword (.mov (.r n) (.x m))) 0))

/-- R234, R254 to R256: MODE, XSEED, RDLM, RDKS, WRKS, RDTIME and MOVKX. -/
def LineMovesWriteTheirValues : Prop :=
  ∀ (s : State) (l : Line) (d a b : Fin 32) (e : Fin 4) (imm : BitVec 16), Issues s l →
    (bitsAt imm.toNat 4 5 < 18 → bitsAt imm.toNat 9 3 < 6 →
      LineTo (.mode imm) s l { l with lmode := (l.lmode &&& 0xFFF00000) ||| imm.setWidth 32 }) ∧
    (l.okK false a = true → l.okK false b = true → readyRegs l [] [a, b] →
      LineTo (.xseed e (.r a) (.r b)) s l { l with seeds := l.seeds.set e.val (l.kr b ++ l.kr a) }) ∧
    (l.okK false d = true → readyRegs l [] [d] →
      LineTo (.rdlm (.r d)) s l (l.setK d l.lmode) ∧
      (s.matrixBusy l.ref = false → LineTo (.rdks (.r d)) s l (l.setK d l.kstatWord))) ∧
    (l.okK false a = true → readyRegs l [] [a] → s.matrixBusy l.ref = false →
      LineTo (.wrks (.r a)) s l { l with kstat := l.kstat &&& ~~~(l.kr a &&& 0x3FF) }) ∧
    (d ≠ 0 → d.val + 1 < l.kregs → readyRegs l [] [d, d + 1] →
      LineTo (.rdtime (.r d)) s l ((l.setK d (BitVec.ofNat 32 s.time)).setK (d + 1) (BitVec.ofNat 32 (s.time / 2 ^ 32)))) ∧
    (l.okK false d = true → l.okX false a = true → readyRegs l [a] [d] →
      ∀ j, (∀ k < l.width, l.isActive k = true → j ≤ k) → j < l.width → l.isActive j = true →
        LineTo (.movkx (.r d) (.r a)) s l (l.setK d (l.x j a)))

/-- The line-uniform instructions on registers: the arithmetic on k registers, the registers that read zero or true, and the moves. -/
def Obligations.UniformResults : Prop := KaluWritesItsResult ∧ FixedRegistersAndPairs ∧ LineMovesWriteTheirValues

/-! ## Ports and taps (03_registers_and_ports.md) -/

/-- R76, R78, R79: what a pop or a peek of a read-bound port delivers to the one thread of an issue mask, shown by MOV: zero and the
end bit past the end, zero in padding, else the element of the scratchpad, extended under R75. A pop moves the position by one, a
peek does not. -/
def Obligations.PortReads : Prop :=
  ∀ (s : State) (l : Line) (c : CSet) (j : Nat) (n : Fin 32) (q : Fin 16) (pop : Bool), Issues s l → l.issueThreads = [j] →
    l.okX l.ty.dbl n = true → l.okPortR l.ty.dbl q = true → readyRegs l (0 :: regs l.ty.dbl n) [] → s.cset (setOf l.ref) = some c →
    let p := l.port q
    let p' : Port := { p with pos := if pop then min (p.pos + 1) (2 ^ 64 - 1) else p.pos }
    let i := Instr.mov (.r n) (if pop then .pop q else .peek q)
    let l' := { l with ports := l.ports.set q p' }
    (descElem p.desc p.pos = .ended →
      LineTo i s l ({ l' with ends := l.ends.set q (l.end_ q ||| maskBit j) }.updThread j fun t => t.put l.ty.dbl n 0)) ∧
    (descElem p.desc p.pos = .pad → p.held = none → LineTo i s l (l'.updThread j fun t => t.put l.ty.dbl n 0)) ∧
    (∀ a : Nat, descElem p.desc p.pos = .at_ a → descSpace p.desc = 1 → descTag p.desc = 0 → s.readsHeld l = false →
      (a < c.win → s.ownBank l.ref c.ref (a / 16) = false → s.bankBusy c a = false → c.badGran.contains (a / 16) = false →
        LineTo i s l (l'.updThread j fun t => t.put l.ty.dbl n
          (portExtend l.ty (descEsize p.desc) (leNat (readBytes c.spad a (2 ^ descEsize p.desc)))))) ∧
      (c.win ≤ a → descOobz p.desc = true → LineTo i s l (l'.updThread j fun t => t.put l.ty.dbl n 0)))

/-- R76 item 3, R78: a push of x(m) by MOV. Past the end it is dropped and sets the end bit, in padding it is dropped, and inside the
set's window it stands in the queue of its bank as a store of the operand's low bytes. Registers do not change. That a dropped push advances the
position is the model's choice (assumption 68). -/
def Obligations.PortPushes : Prop :=
  ∀ (s : State) (l : Line) (c : CSet) (j : Nat) (m : Fin 32) (q : Fin 16), Issues s l → l.issueThreads = [j] →
    l.okX l.ty.dbl m = true → l.okPortW l.ty.dbl q = true → readyRegs l (regs l.ty.dbl m ++ regs l.ty.dbl 0) [] →
    s.cset (setOf l.ref) = some c →
    let p := l.port q
    let l' := { l with ports := l.ports.set q { p with pos := min (p.pos + 1) (2 ^ 64 - 1) } }
    let i := Instr.mov (.q q) (.x m)
    let v := plainVal l j l.ty.dbl (.x m)
    (descElem p.desc p.pos = .ended → LineTo i s l { l' with ends := l.ends.set q (l.end_ q ||| maskBit j) }) ∧
    (descElem p.desc p.pos = .pad → LineTo i s l l') ∧
    (∀ a : Nat, descElem p.desc p.pos = .at_ a → descSpace p.desc = 1 → a < c.win → c.isMark (a / 16) = false →
      s.barPending c.ref (a / 16) = false → s.acquiring l.ref = false → s.unconfirmed l.ref = false → s.bankLoad c.core (CSet.bankOf a) < 16 →
      let size := 2 ^ descEsize p.desc
      let r : BankReq := {
        set := c.ref, id := s.nextId, issuer := l.ref, thread := j, off := a, size := size,
        op := .store (decide (descTag p.desc = 3)) none, val := v.toNat % 2 ^ (8 * size), run := 0, pc := l.pc, word := iword i,
        port := some q.val }
      let s' := { s with bankQ := s.bankQ ++ [r], nextId := s.nextId + 1 }
      exec i s = .next (s'.afterLine l { l'.next with takeRun := none }))

/-- R83, R84: in a 32-bit wrapping add of two threads i < j, e0 reads the first thread's result, e1 and e3 its operand a, e2 its
result; the first thread reads the seeds of e0, e1 and e2, and its own operand for e3. -/
def Obligations.TapsCarryBetweenThreads : Prop :=
  ∀ (s : State) (l : Line) (i j : Nat) (n m : Fin 32), IssuesAll s l → l.issueThreads = [i, j] → l.ty = .n32 → l.isat = false → l.cv = false →
    n ≠ 0 → l.okX false n = true → l.okX false m = true → readyRegs l [m, n] [] → j < l.threads.length →
    let a (t : Nat) : Word := l.x t m
    let seed (e : Nat) : Word := (l.seeds.getD e 0).setWidth 32
    ∀ e : Fin 4,
      let first : Word := if e = 3 then a i else seed e
      ∃ l', LineTo (.add (.r n) (.x m) (.tap e)) s l l' ∧ l'.x i n = a i + first ∧
        l'.x j n = a j + (if e = 0 ∨ e = 2 then a i + first else a i) ∧
        ∀ t k, ¬ ((t = i ∨ t = j) ∧ k = n.val) → l'.x t k = l.x t k

/-! ## Control flow and traps (12_isa_control.md, 16_privileged_state.md) -/

/-- A control instruction completes: the line goes on as `l'` at pc `to_`, and nothing else changes. -/
def JumpsTo (i : Instr) (s : State) (l l' : Line) (to_ : Word) : Prop :=
  exec i s = .next (s.afterLine l { l'.next with pc := to_, takeRun := none })

/-- R315, R316, R318, R323, R325: the jumps, the calls with their links, RCV, YIELD and NOP. The mask, the stack and a pending
reconvergence address stay. JR waits for k(a), and CALL on a line with fewer than two k registers is the illegal-operand fault.
YIELD's issue policies are the model's reading (assumption 12): under policy 0 its new age is younger than every other. -/
def Obligations.JumpsAndCalls : Prop :=
  ∀ (s : State) (l : Line) (d a : Fin 32) (o : BitVec 26), Issues s l →
    let tgt : Word := l.pc + (o.signExtend 32 <<< 2)
    JumpsTo (.jmp o) s l l tgt ∧
    (2 ≤ l.kregs → readyRegs l [] [1] → JumpsTo (.call o) s l (l.setK 1 (l.pc + 4)) tgt) ∧
    LineTo (.rcv o) s l { l with ra := tgt, rp := true } ∧
    LineTo .nop s l l ∧
    exec .yield s = .next ({ s with nextId := s.nextId + 1 }.afterLine l
      { { l with yielded := true, age := if l.policy = 0 then s.nextId else l.age }.next with takeRun := none }) ∧
    (l.okK false a = true → readyRegs l [] [a] → l.kr a &&& 3 = 0 → JumpsTo (.jr (.r a)) s l l (l.kr a)) ∧
    (l.okK false a = true → a.val ∈ l.kpend → exec (.jr (.r a)) s = .next (s.park l (.kreg a) 0)) ∧
    (l.kregs < 2 → s.unconfirmed l.ref = false → exec (.call o) s = .next (s.trapEntry l { cls := 0x03 } l.pc 0 l.pc (iword (.call o)) 0)) ∧
    (l.okK false d = true → l.okK false a = true → readyRegs l [] [a, d] → l.kr a &&& 3 = 0 →
      JumpsTo (.callr (.r d) (.r a)) s l (l.setK d (l.pc + 4)) (l.kr a))

/-- R50, R319: a branch whose taken threads are T and whose active threads not taken are N. -/
def Obligations.BranchDiverges : Prop :=
  ∀ (s : State) (l : Line) (p : Fin 8) (inv : Bool) (o : BitVec 22) (T : DWord), Issues s l → l.width ≤ 64 →
    (∀ j < 64, T.getLsbD j = (decide (j < l.width) && l.active.getLsbD j && (l.p j p != inv))) →
    let N := l.active &&& ~~~T
    let tgt : Word := l.pc + (o.signExtend 32 <<< 2)
    let i := Instr.br p inv o
    let l1 := { l with rp := false }
    let taken : StackEntry := { pc := tgt, rcv := l.ra, mask := T }
    let join : StackEntry := { pc := l.ra, rcv := l.crv, mask := l.active }
    (T = 0 → JumpsTo i s l l1 (l.pc + 4)) ∧
    (T ≠ 0 → N = 0 → JumpsTo i s l l1 tgt) ∧
    (T ≠ 0 → N ≠ 0 → l.rp = true → l.ra = l.crv → l.depth + 1 ≤ 16 →
      JumpsTo i s l { l1 with stack := l.stack.setIfInBounds l.depth taken, depth := l.depth + 1, active := N, crv := l.ra } (l.pc + 4)) ∧
    (T ≠ 0 → N ≠ 0 → l.rp = true → l.ra ≠ l.crv → l.depth + 2 ≤ 16 →
      JumpsTo i s l { l1 with stack := (l.stack.setIfInBounds l.depth join).setIfInBounds (l.depth + 1) taken,
                              depth := l.depth + 2, active := N, crv := l.ra } (l.pc + 4)) ∧
    (s.unconfirmed l.ref = false → T ≠ 0 → N ≠ 0 →
      (l.rp = false → exec i s = .next (s.trapEntry l { cls := 0x1C } l.pc 0 l.pc (iword i) 0)) ∧
      (l.rp = true → 16 < l.depth + (if l.ra = l.crv then 1 else 2) →
        exec i s = .next (s.trapEntry l { cls := 0x1D } l.pc 0 l.pc (iword i) 0)))

/-- R51: before a fetch the line pops while pc equals crv and the stack is not empty; afterwards pc differs from crv or the stack is
empty, and no pop happens when that holds already. -/
def PopsUntilApart : Prop :=
  ∀ l : Line, (l.pops.pc ≠ l.pops.crv ∨ l.pops.depth = 0) ∧ l.pops.depth ≤ l.depth ∧
    (l.pc ≠ l.crv ∨ l.depth = 0 → l.pops = l) ∧
    (l.pc = l.crv → 0 < l.depth → l.pops = Line.pops { l with
      pc := (l.entry (l.depth - 1)).pc, active := (l.entry (l.depth - 1)).mask, crv := (l.entry (l.depth - 1)).rcv, depth := l.depth - 1 })

/-- R51: the line that an issue picks pops before its fetch. -/
def PopsBeforeTheFetch : Prop :=
  ∀ (s : State) (l : Line), s.line l.ref = some l → (s.prepare l).line l.ref = some l.pops

/-- The pops of the divergence stack. -/
def Obligations.ReconvergenceStack : Prop := PopsUntilApart ∧ PopsBeforeTheFetch

/-- R53, R321: a thread that leaves clears its bit in the active mask and in every entry; an entry whose mask is then zero is
removed, and the other entries keep their order. -/
def LeavingClearsEveryMask : Prop :=
  ∀ (l : Line) (j : Nat), j < 64 → l.depth ≤ 16 →
    (l.leave j).active = l.active &&& ~~~(maskBit j) ∧
    (l.leave j).entries = (l.entries.map fun e => { e with mask := e.mask &&& ~~~(maskBit j) }).filter fun e => decide (e.mask ≠ 0)

/-- R53, R55, R321: EXIT and KILL on a line whose earlier writes are confirmed. The threads of the issue mask leave one after another; KILL counts
each in the grid's killed-thread count. While an active thread is left, the line goes on at pc + 4; with none left it pops the top entry, and without
an entry it has ended. A thread whose load has not returned makes the line wait there, and one to which a value was not delivered faults there, those
before it having left: that a thread waits for its loads before it leaves is the model's reading (assumption 102). -/
def ThreadsLeave : Prop :=
  ∀ (s : State) (l : Line), Issues s l → s.unconfirmed l.ref = false → (∀ g ∈ s.grids, g.killed ≤ 0xFFFFFFFF) →
    let clear (j : Nat) : Prop := (∀ p ∈ l.pend, p.1 ≠ j) ∧ ∀ f ∈ l.failed, f.1 ≠ j
    let left (js : List Nat) : Line := js.foldl Line.leave l
    let counted (n : Nat) : State := { s with
      grids := s.grids.map fun (g : Grid) => if g.id = l.ref.grid ∧ 0 < n then { g with killed := min (g.killed + n) 0xFFFFFFFF } else g }
    ∀ (i : Instr) (after : Nat → State), (i, after) ∈ [(Instr.exit, fun _ => s), (Instr.kill, counted)] →
      ((∀ j ∈ l.issueThreads, clear j) →
        let m := left l.issueThreads
        let e := m.entry (m.depth - 1)
        let s' := after l.issueThreads.length
        (m.active ≠ 0 → exec i s = .next (s'.setLine { m.next with takeRun := none })) ∧
        (m.active = 0 → 0 < m.depth → exec i s = .next (s'.setLine { m.next with
          takeRun := none, pc := e.pc, active := e.mask, crv := e.rcv, depth := m.depth - 1 })) ∧
        (m.active = 0 → m.depth = 0 → ∃ t, exec i s = .next t ∧ t = s'.lineEnds { m.next with takeRun := none } ∧
          ∀ u, t.line l.ref = some u → u.status = .ended)) ∧
      (∀ (before rest : List Nat) (j : Nat), l.issueThreads = before ++ j :: rest → (∀ k ∈ before, clear k) →
        let m := left before
        let s' := after before.length
        (∀ n, l.pend.find? (fun p => decide (p.1 = j)) = some (j, n) → exec i s = .next (s'.park m (.reg j n) j)) ∧
        (∀ n r, (∀ p ∈ l.pend, p.1 ≠ j) → l.failedAt j = some (j, n, r) →
          exec i s = .next (s'.trapEntry m (consumeFault j n r) m.pc j m.pc (iword i) j)))

/-- How threads leave a line, and what is left of it. -/
def Obligations.ExitAndKill : Prop := LeavingClearsEveryMask ∧ ThreadsLeave

/-- R47, R324: GROW on the count c of its grid by k(a), with h sets to a hall. -/
def Obligations.GrowRaisesTheCount : Prop :=
  ∀ (s : State) (l : Line) (d a : Fin 32) (g : Grid), Issues s l → l.okK false d = true → l.okK false a = true →
    readyRegs l [] [a, d] → s.unconfirmed l.ref = false → s.grid l.ref.grid = some g →
    let inc := (l.kr a).toNat
    let h := 2 ^ fld (g.pkt.getD 0 0) 18 2
    let gives (count : Nat) (v : Nat) : Prop := exec (.grow (.r d) (.r a)) s =
      .next ((s.updGrid l.ref.grid fun g => { g with count := count }).afterLine l { (l.setK d (BitVec.ofNat 32 v)).next with takeRun := none })
    (1 ≤ inc → g.count + inc ≤ 2 ^ 32 → inc % h = 0 → gives (g.count + inc) g.count) ∧
    (inc = 0 → gives g.count (min g.count 0xFFFFFFFF)) ∧
    (1 ≤ inc → 2 ^ 32 < g.count + inc ∨ inc % h ≠ 0 → gives g.count 0)

/-- R326, R327: TRAP completes its lowest thread and enters the trap with its code; SCALL, once nothing is outstanding, enters system
software with the service number, to go on at pc + 4.
TRI in the record of TRAP is the line's tri when it enters the trap, TMASK that thread alone and ELEM the thread that completed, the model's reading
(assumption 13). -/
def Obligations.TrapAndScallEnter : Prop :=
  ∀ (s : State) (l : Line) (c : Fin 32), Issues s l → s.unconfirmed l.ref = false →
    (∀ j, l.issueThreads = [j] →
      exec (.trap c) s = .next (s.trapEntry l.next { cls := 0x20, code := c, elem := j } (l.pc + 4) 0 l.pc (iword (.trap c)) 0)) ∧
    (∀ j k r, l.issueThreads = j :: k :: r →
      exec (.trap c) s = .next (s.trapEntry l { cls := 0x20, code := c, elem := j } l.pc k l.pc (iword (.trap c)) k)) ∧
    (l.issueThreads = [] → LineTo (.trap c) s l l) ∧
    (s.fenceOk l .dev s.nextId = true → l.errs = [] →
      exec (.scall c) s = .next (s.trapEntry l.next { cls := 0x21, code := c } (l.pc + 4) 0 l.pc (iword (.scall c)) 0))

/-- R370, R371: what taking an exception saves. The line is TRAPPED at the resume pc and tri with its record; with FREN 1 the record,
with the next SEQ of its handle, stands at FRBASE + 64 × handle, where the partition owns that memory (R414); with FREN 0, or while
held records are still being written, it is held and no memory changes. That a record whose place the partition does not own counts as written at
once and changes no byte is the model's choice (assumption 22). -/
def Obligations.TrapEntrySavesTheLine : Prop :=
  ∀ (s : State) (l : Line) (f : FaultInfo) (pc rpc word : Word) (tri rtri : Nat), s.line l.ref = some l → l.part < 8 → s.memWf → f.reg = none →
    let t := s.trapEntry l f pc tri rpc word rtri
    let seq := (tget 0 (s.part l.part).seqs l.handle + 1) % 65536
    let pa := (s.part l.part).frbase + 64 * l.handle
    let r := f.record l rtri rpc word s.time
    ∃ m, t.line l.ref = some m ∧ m.status = .trapped ∧ m.pc = pc ∧ m.tri = tri ∧ m.threads = l.threads ∧ m.k = l.k ∧
      m.active = l.active ∧ m.stack = l.stack ∧ m.depth = l.depth ∧ m.ports = l.ports ∧ m.lmode = l.lmode ∧ m.kstat = l.kstat ∧
      (∀ q, q ≠ l.ref → t.line q = s.line q) ∧ t.hostMem = s.hostMem ∧ t.sets = s.sets ∧
      ((s.part l.part).fren = false ∨ (s.part l.part).backlog ≠ [] → m.record = r ∧ m.recStage = .held ∧ t.dev = s.dev) ∧
      ((s.part l.part).fren = true → (s.part l.part).backlog = [] → m.record = { r with seq := seq } ∧
        (s.mayStore l.part pa = false → m.recStage = .written s.time [] ∧ t.dev = s.dev) ∧
        (s.mayStore l.part pa = true →
          (∃ late, m.recStage = .written (max s.time (max (s.l2Rec (lineOf (canon pa))).lease (s.l2Rec (lineOf (canon pa))).tlease)) late ∧
            ∀ x ∈ late, x.1 = lineOf (canon pa)) ∧
          readBytes t.dev (canon pa) 64 = ({ r with seq := seq } : Rec).bytes ∧
          ∀ a, a < canon pa ∨ canon pa + 64 ≤ a → readByte t.dev a = readByte s.dev a))

/-- R370 steps 3 and 4, R371: once time has passed the record's completion time, the line's device-scope release has come, and while FREN is 1,
PENDING_BIT_SET sets the line's bit of the pending bitmap and adds 1 to FCOUNT; with FDEN 1 the doorbell granule holds the new FCOUNT, zeros behind it, and is full. While FREN
is 0 it does nothing. -/
def Obligations.PendingBitFollowsTheRecord : Prop :=
  ∀ (s : State) (l : Line) (g : Nat) (late : List TabRef), s.lines = [l] → l.status = .trapped → l.recStage = .written g late → g < s.time →
    s.tabDone late = true → s.fenceOk l .dev s.nextId = true → l.part < 8 → s.memWf → (s.part l.part).backlog = [] →
    (∀ c off, s.doorbellAt l.part = some (c, off) → s.bankBusy c off = false) →
    let pa := (s.part l.part).fpbase + l.handle / 8
    ((s.part l.part).fren = false → s.sysRecs = [] → exec (.pendingBitSet l.handle) s = .next s) ∧
    ((s.part l.part).fren = true → ∃ t, exec (.pendingBitSet l.handle) s = .next t ∧ (t.part l.part).fcount = (s.part l.part).fcount + 1 ∧
      (s.mayStore l.part pa = true → readByte t.dev (canon pa) = readByte s.dev (canon pa) ||| (1#8 <<< (l.handle % 8))) ∧
      (∀ a, a ≠ canon pa → readByte t.dev a = readByte s.dev a) ∧
      (∃ m, t.line l.ref = some m ∧ m.recStage = .done ∧ m.status = .trapped) ∧
      (bit (s.part l.part).fdset 31 = false → t.sets = s.sets) ∧
      (∀ c off, bit (s.part l.part).fdset 31 = true → s.sets = [c] → c.part = l.part → c.handle = fld (s.part l.part).fdset 0 18 →
        c.phase = .resident ∨ c.phase = .stopping → off = fld (s.part l.part).fdoff 0 20 → off % 16 = 0 → off < c.win → c.isMark (off / 16) = false →
        Memory.wf c.spad = true →
        ∃ c', t.cset c.ref = some c' ∧ c'.isFull (off / 16) = true ∧ c'.read off 4 = ((s.part l.part).fcount + 1).toNat ∧ c'.read (off + 4) 12 = 0))

/-! ## Privileged instructions (16_privileged_state.md) -/

/-- A supervisor line issues, its earlier writes are confirmed and these k registers are ready. -/
abbrev Supervises (s : State) (l : Line) (ks : List Nat) : Prop :=
  Issues s l ∧ l.pl = true ∧ l.status ≠ .ended ∧ s.unconfirmed l.ref = false ∧ readyRegs l [] ks

/-- A privileged instruction completes: `s'` is the state with its effect, in which the line still stands as `l`, and `l'` is the line
with its result. -/
def SupTo (i : Instr) (s s' : State) (l l' : Line) : Prop := exec i s = .next (s'.afterLine l { l'.next with takeRun := none })

/-- R362, R210: at user level every instruction of major 0x3E takes the privileged-instruction fault, and nothing else happens. -/
def UserLevelMayNotRunPrivileged : Prop :=
  ∀ (s : State) (l : Line) (d a b : Fld) (n : Fin 4), Issues s l → l.pl = false → s.unconfirmed l.ref = false →
    ∀ i ∈ [Instr.prd d a, .pwr a b, .cxrd d a, .cxwr a b, .lresume d a n, .ftset a b, .ftcommit a b, .rgset a b, .rgphase a b,
        .spreempt d a, .qctl d a n],
      exec i s = .next (s.trapEntry l { cls := 0x02 } l.pc 0 l.pc (iword i) 0)

/-- R366, R369: PRD reads and PWR writes the registers of the line's own partition; a number that is not assigned, or above 0xFFFF,
takes the privileged-argument fault. That FDSET keeps all the bits of its fields as written, those included that R365 wants zero in a handle, is the
model's choice (assumption 92). -/
def PrivilegedRegisters : Prop :=
  ∀ (s : State) (l : Line) (d a b : Fin 32), Supervises s l [d, a, b] → l.okK false d = true → l.okK false a = true → l.okK false b = true →
    l.part < 8 →
    let p := s.part l.part
    let v := l.kr b
    let reads (n : Nat) (x : Word) : Prop := l.kr a = BitVec.ofNat 32 n → LineTo (.prd (.r d) (.r a)) s l (l.setK d x)
    let writes (n : Nat) (q : Partition) : Prop := l.kr a = BitVec.ofNat 32 n → SupTo (.pwr (.r a) (.r b)) s (s.updPart l.part fun _ => q) l l
    reads 0x0000 (BitVec.ofNat 32 l.part) ∧ reads 0x0016 p.fcount ∧ reads 0x0030 (BitVec.ofNat 32 s.time) ∧
    reads 0x0031 (BitVec.ofNat 32 (s.time / 2 ^ 32)) ∧ reads 0x0051 (BitVec.ofNat 32 p.pport) ∧
    reads 0x0010 p.frlo ∧ reads 0x0011 p.frhi ∧ reads 0x0012 p.fplo ∧ reads 0x0013 p.fphi ∧
    writes 0x0014 { p with fdset := v &&& 0x8003FFFF } ∧
    writes 0x0015 (if v &&& 0xF = 0 then { p with fdoff := v &&& 0xFFFFF } else p) ∧
    writes 0x0016 p ∧
    writes 0x0020 (if 256 ≤ fld v 0 15 ∧ fld v 0 15 ≤ 16384 then { p with lease := fld v 0 15 } else p) ∧
    writes 0x0021 (if 1000 ≤ fld v 0 20 ∧ fld v 0 20 ≤ 1000000 then { p with holdt := fld v 0 20 } else p) ∧
    writes 0x0022 (if 1 ≤ fld v 0 5 ∧ fld v 0 5 ≤ 16 then { p with sbuf := fld v 0 5 } else p) ∧
    writes 0x0023 (if fld v 0 9 ≤ 256 then { p with rbuf := fld v 0 9 } else p) ∧
    writes 0x0060 { p with kpeer := fld v 0 13 } ∧
    (∀ n, n ≤ 0x7F → writes (0x0100 + n) { p with route := tset 0 p.route n v }) ∧
    (p.fren = true → writes 0x0011 p ∧ writes 0x0012 p ∧ writes 0x0013 p) ∧
    (p.fren = false → writes 0x0011 { p with frhi := v &&& 0x1FFFFFF } ∧ writes 0x0012 { p with fplo := v &&& 0xFFFF0000 }) ∧
    (0xFFFF < (l.kr a).toNat ∨ s.privRead l.part (l.kr a).toNat = none →
      exec (.prd (.r d) (.r a)) s = .next (s.trapEntry l { cls := 0x22 } l.pc 0 l.pc (iword (.prd (.r d) (.r a))) 0) ∧
      exec (.pwr (.r a) (.r b)) s = .next (s.trapEntry l { cls := 0x22 } l.pc 0 l.pc (iword (.pwr (.r a) (.r b))) 0))

/-- Who may run a privileged instruction, and the registers that PRD and PWR name. -/
def Obligations.PrivilegeAndItsRegisters : Prop := UserLevelMayNotRunPrivileged ∧ PrivilegedRegisters

/-- R378: where the line image holds the parts of a line, and that a word of an x register written by CXWR reads back. -/
def LineImageLayout : Prop :=
  ∀ (l : Line) (hall id : Nat) (v : Word), 0 < l.width → l.xregs ≤ 32 → 0 < l.xregs →
    let w := l.imageWord hall
    w 0x000 = some l.pc ∧ w 0x004 = some l.lmode ∧ w 0x008 = some l.kstatWord ∧
    w 0x010 = some (l.active.setWidth 32) ∧ w 0x014 = some ((l.active >>> 32).setWidth 32) ∧ w 0x018 = some l.crv ∧ w 0x01C = some l.ra ∧
    w 0x020 = some l.d0 ∧ w 0x024 = some l.d1 ∧ w 0x028 = some (BitVec.ofNat 32 l.hd) ∧ w 0x038 = some l.mmaCount ∧
    (∀ n < 16, w (0x040 + 4 * n) = some (l.kr n) ∧ w (0x080 + 8 * n) = some ((l.end_ n).setWidth 32) ∧
      w (0x100 + 16 * n) = some (l.entry n).pc ∧ w (0x104 + 16 * n) = some (l.entry n).rcv ∧ w (0x108 + 16 * n) = some ((l.entry n).mask.setWidth 32)) ∧
    (∀ t < l.width, t < 64 → w (0x300 + 8 * t) = some (l.fpst t) ∧
      (∀ n < l.xregs, w (0x1000 + 4 * (t * l.xregs + n)) = some (l.x t n) ∧
        (0 < n → t < l.threads.length → ∃ l', l.imageWrite hall id (0x1000 + 4 * (t * l.xregs + n)) v = some l' ∧
          l'.x t n = v ∧ l'.imageWord hall (0x1000 + 4 * (t * l.xregs + n)) = some v))) ∧
    (∀ o, o % 4 ≠ 0 ∨ 0x1000 + 4 * l.width * l.xregs ≤ o → w o = none)

/-- R375: CXRD reads and CXWR writes a word of the image of a TRAPPED line of the same partition; a line that is not trapped takes the
privileged-argument fault. -/
def ContextAccess : Prop :=
  ∀ (s : State) (l tl : Line) (d a b : Fin 32), Supervises s l [d, a, a + 1, b] → l.okK false d = true → l.okK false b = true →
    a.val + 1 < l.kregs → (s.handleCore l.part (l.kr a)).isSome = true → s.lineAt l.part (l.kr a) = some tl → tl.ref ≠ l.ref →
    let hall := match s.cset (setOf tl.ref) with | some c => c.hall | none => 0
    let off := (l.kr (a + 1)).toNat
    (tl.status = .trapped →
      (∀ v, tl.imageWord hall off = some v → LineTo (.cxrd (.r d) (.r a)) s l (l.setK d v)) ∧
      (∀ tl', tl.imageWrite hall s.nextId off (l.kr b) = some tl' → tl'.ref = tl.ref → tl'.ports = tl.ports →
        SupTo (.cxwr (.r a) (.r b)) s { s.setLine tl' with nextId := s.nextId + 1 } l l)) ∧
    (tl.status ≠ .trapped →
      exec (.cxrd (.r d) (.r a)) s = .next (s.trapEntry l { cls := 0x22 } l.pc 0 l.pc (iword (.cxrd (.r d) (.r a))) 0) ∧
      exec (.cxwr (.r a) (.r b)) s = .next (s.trapEntry l { cls := 0x22 } l.pc 0 l.pc (iword (.cxwr (.r a) (.r b))) 0))

/-- The line image, and CXRD and CXWR on it. -/
def Obligations.SavedLineAccess : Prop := LineImageLayout ∧ ContextAccess

/-- R376: the return from an exception. LRESUME writes 1 when the line is TRAPPED, its record's steps are done and the sequence
matches: the pending bit clears, and under disposition 0 the line is ready at its pc and tri. A line that is not trapped, or another
sequence, gives 0 and no effect. That no byte changes where the partition does not own the bitmap's memory is the model's choice
(assumption 22). -/
def Obligations.LresumeReturnsFromATrap : Prop :=
  ∀ (s : State) (l tl : Line) (d a : Fin 32) (n : Fin 4), Supervises s l [d, a, a + 1] → l.okK false d = true → a.val + 1 < l.kregs →
    (s.handleCore l.part (l.kr a)).isSome = true → s.lineAt l.part (l.kr a) = some tl → tl.ref ≠ l.ref →
    let seq := fld (l.kr (a + 1)) 0 16
    (tl.status ≠ .trapped → LineTo (.lresume (.r d) (.r a) n) s l (l.setK d 0)) ∧
    (tl.status = .trapped → tl.recStage = .done → tl.record.seq ≠ seq → LineTo (.lresume (.r d) (.r a) n) s l (l.setK d 0)) ∧
    (tl.status = .trapped → tl.recStage = .done → tl.record.seq = seq → s.line tl.ref = some tl → (∀ q, (tl.port q).bound = false) →
      s.memWf →
      ∃ t m u, exec (.lresume (.r d) (.r a) 0) s = .next t ∧ t.line l.ref = some m ∧ m.k = (l.setK d 1).k ∧ m.pc = l.pc + 4 ∧
        t.line tl.ref = some u ∧ u.status = .ready ∧ u.pc = tl.pc ∧ u.tri = tl.tri ∧ u.threads = tl.threads ∧ u.k = tl.k ∧ u.active = tl.active ∧
        let pa := (s.part tl.part).fpbase + tl.handle / 8
        (∀ a, readByte t.dev a =
          if s.mayStore tl.part pa = true ∧ a = canon pa then readByte s.dev a &&& ~~~(1#8 <<< (tl.handle % 8)) else readByte s.dev a) ∧
        t.hostMem = s.hostMem ∧ t.sets = s.sets ∧ t.grids = s.grids ∧ t.parts = s.parts ∧ t.queues = s.queues ∧ t.pkg = s.pkg ∧
        ∀ r, r ≠ l.ref → r ≠ tl.ref → t.line r = s.line r)

/-- R381 to R384: FTSET, FTCOMMIT, RGSET and RGPHASE write the pending figure table, the committed table, the region table and a
region's phase. That RGPHASE completes at once, with nothing to wait for, is the model's reading (assumption 33). -/
def Obligations.TablesAreWritten : Prop :=
  ∀ (s : State) (l : Line) (a b : Fin 32), Supervises s l [b, a, a + 1] → l.okK false a = true → l.okK false b = true → l.part < 8 →
    let p := s.part l.part
    let i := (l.kr a).toNat
    let v := l.kr b
    (i ≤ 0x7FF → i % 32 < 19 → p.commit = none → (3 ≤ i % 32 → p.pport.testBit (i % 32 - 3) = true) →
      ∃ q : Partition, SupTo (.ftset (.r a) (.r b)) s (s.updPart l.part fun _ => q) l l ∧ q = { p with pendFig := q.pendFig } ∧
        (tabWf 0 0 p.pendFig = true → q.pendWord i = v) ∧ ∀ n, n ≠ i → q.pendWord n = p.pendWord n) ∧
    (a.val + 1 < l.kregs → fld v 6 2 = 0 → p.commit = none → p.figure = none →
      let e := (l.kr (a + 1)).toNat * 2 ^ 32 + i
      let slots := (List.range (fld v 0 6 + 1)).map p.pendSlot
      (∀ sl ∈ slots, 2000 ≤ sl.len ∧ sl.len ≤ 1000000 ∧ 200 ≤ sl.guard ∧ sl.guard + 1000 ≤ sl.len) → s.time + fld v 8 24 + 10000 ≤ e →
      SupTo (.ftcommit (.r a) (.r b)) s (s.updPart l.part fun _ => { p with commit := some { slots, epoch := e, hold := fld v 8 24 } }) l l) ∧
    (i ≤ 0x7FF → i % 8 < 2 → bit (p.region (i / 8) 2) 0 = false →
      SupTo (.rgset (.r a) (.r b)) s (s.updPart l.part fun _ => { p with regions := tset 0 p.regions i (v &&& 0xFFFFFF) }) l l) ∧
    (i ≤ 0x7FF → 4 ≤ i % 8 → fld v 0 3 < 6 →
      SupTo (.rgset (.r a) (.r b)) s (s.updPart l.part fun _ => { p with regions := tset 0 p.regions i (v &&& 0xFFFF0007) }) l l) ∧
    (i ≤ 0xFF → v.toNat ≤ 3 → bit (p.region i 2) 0 = true → tabWf 0 0 p.regions = true →
      ∃ q : Partition, SupTo (.rgphase (.r a) (.r b)) s (s.updPart l.part fun _ => q) l l ∧ q = { p with regions := q.regions } ∧
        fld (q.region i 2) 1 2 = v.toNat ∧ bit (q.region i 2) 0 = true ∧ ∀ j w, j ≠ i → w < 8 → q.region j w = p.region j w)

/-- R377, R379: SPREEMPT stops every set of the hall when the image area has room; QCTL 0 starts a stopped copy operation again;
each gives 1, SPREEMPT gives 0 when no set stands there, and QCTL gives 0 when the head is not stopped. -/
def Obligations.PreemptAndQueueControl : Prop :=
  ∀ (s : State) (l : Line) (d a : Fin 32), Supervises s l [d, a] → l.okK false d = true → l.okK false a = true →
    (s.handleCore l.part (l.kr a)).isSome = true → s.line l.ref = some l →
    (∀ c, fld (l.kr a) 4 6 = 0 → s.setAt l.part (l.kr a) = some c → c.phase ≠ .stopping → s.imageRoom c = true →
      SupTo (.spreempt (.r d) (.r a)) s { s with sets := s.sets.map fun (x : CSet) =>
        if x.ref.grid = c.ref.grid ∧ x.hall = c.hall then { x with phase := .stopping } else x } l (l.setK d 1)) ∧
    (fld (l.kr a) 4 6 = 0 → s.setAt l.part (l.kr a) = none → LineTo (.spreempt (.r d) (.r a)) s l (l.setK d 0)) ∧
    (∀ core q o, s.handleCore l.part (l.kr a) = some core → fld (l.kr a) 0 3 = 0 → fld (l.kr a) 3 7 = 64 + q → q < 4 →
      s.copyHead core q = some o → o.part = l.part →
      (∀ cls ad, o.state = .stopped cls ad → SupTo (.qctl (.r d) (.r a) 0) s (s.setCopy { o with state := .started }) l (l.setK d 1)) ∧
      (o.state.isStopped = false → ∀ n, LineTo (.qctl (.r d) (.r a) n) s l (l.setK d 0)))

/-! ## Memory instructions (10_isa_memory_sync.md)

An access is issued by its instruction and performed later, by the step of the bank, the slice or the network unit that serves it. -/

/-- Memory, the grids, the registers of the partitions, the queues and the package, the time, and every line but l are as before. -/
abbrev LeavesAllButSets (s t : State) (l : Line) : Prop :=
  t.dev = s.dev ∧ t.hostMem = s.hostMem ∧ t.grids = s.grids ∧ t.parts = s.parts ∧ t.queues = s.queues ∧ t.pkg = s.pkg ∧
  t.time = s.time ∧ ∀ r, r ≠ l.ref → t.line r = s.line r

/-- What an instruction leaves that only enters requests for line l. -/
abbrev LeavesTheRest (s t : State) (l : Line) : Prop := t.sets = s.sets ∧ LeavesAllButSets s t l

/-- A line that goes on with the load of thread j into x(d), or into the pair from x(d), outstanding; a load to x0 discards its value. -/
abbrev goesOnWaitingFor (l : Line) (j : Nat) (dbl : Bool) (d : Fin 32) : Line :=
  { l.next with takeRun := none, pend := if d = 0 then l.pend else l.pend ++ (regs dbl d).map fun n => (j, n) }

/-- R150, R176, R257, R263, R265: LDS, LDGAL (in every tag mode but .take), STS and STGAL enter one request for each thread of the issue mask
in its bank's queue, in ascending thread order, and the line goes on; a load's registers are pending. `w j` and `o j` are the window and
offset that thread j's address names. Each thread of an .acq load waits for the one before it, so that form is stated for one thread.
Room is counted request by request, and a load waits for an earlier tagged load, the model's readings (assumptions 17, 61). -/
def LocalAccessesEnterTheirBanks : Prop :=
  ∀ (s : State) (l : Line) (gal : Bool) (t : TagMode) (wd : Width) (sx fill : Bool) (rel : Option Scope) (d a b : Fin 32)
    (w : Nat → CSet) (o : Nat → Nat), IssuesAll s l →
    let dbl := decide (wd = .d)
    l.okX dbl d = true → l.okX false a = true → l.okK false b = true → readyRegs l (a.val :: regs dbl d) [b] →
    let va (j : Nat) : Nat := (l.x j a + l.kr b).toNat
    (∀ j ∈ l.issueThreads, s.localAddr l gal (va j) wd.bytes = .ok (w j, o j)) → s.acquiring l.ref = false →
    (∀ j ∈ l.issueThreads, ∀ g, s.bankLoad (w j).core (CSet.bankOf g) + l.issueThreads.length ≤ 16) → (∀ j, s.cset (w j).ref = some (w j)) →
    l.takeRun = none →
    let enters (i : Instr) (op : BankOp) (val : Nat → Nat) (l' : Line) (ino : Nat) : Prop := exec i s = .next
      ({ s with
          bankQ := s.bankQ ++ l.issueThreads.zipIdx.map fun (p : Nat × Nat) => ({
            set := (w p.1).ref, id := s.nextId + p.2, issuer := l.ref, thread := p.1, off := o p.1, size := wd.bytes, op := op,
            val := val p.1, run := 0, pc := l.pc, word := iword i, ino := ino, gal := gal } : BankReq)
          nextId := s.nextId + l.issueThreads.length }.setLine { l'.next with takeRun := none })
    (t ≠ .take → (t = .acq → l.issueThreads.length ≤ 1) → s.awaitsTag l = false →
      let pend := if d = 0 then l.pend else l.pend ++ (l.issueThreads.map fun j => (regs dbl d).map fun n => (j, n)).flatten
      enters (if gal then .ldgal t wd sx (.r d) (.r a) (.r b) else .lds t wd sx (.r d) (.r a) (.r b))
        (.load (if t = .acq then .any else t) (if d = 0 then none else some d.val) sx (decide (t = .acq))) (fun _ => 0) { l with pend := pend }
        l.issueNo) ∧
    ((∀ j ∈ l.issueThreads, s.barPending (w j).ref (o j / 16) = false ∧ (w j).isMark (o j / 16) = false) → s.unconfirmed l.ref = false →
      enters (if gal then .stgal rel fill wd (.r d) (.r a) (.r b) else .sts rel fill wd (.r d) (.r a) (.r b)) (.store fill rel)
        (fun j => (if wd = .d then (l.xd j d).toNat else (l.x j d).toNat) % 2 ^ (8 * wd.bytes)) l 0)

/-- R145, R148, R156, R257, R272, R277: where a scratchpad or gallery access or a barrier instruction faults at its first thread, and WAITA at thread
0: a bit of the address set above those of its space, a misalignment (bit 0 of BARWAIT's address is the phase), a place outside the set's window, or
outside the window of a member of its hall; a store, an atomic and WAITA on a barrier granule. Of several the first of these is taken. -/
def LocalAddressesFault : Prop :=
  ∀ (s : State) (l : Line) (c : CSet) (j : Nat) (js : List Nat) (gal : Bool) (t : TagMode) (wd : Width) (sx fill : Bool) (rel : Option Scope) (op : AtomOp)
    (o : Sys2Proof.Ordering) (d a b : Fin 32), Issues s l → l.issueThreads = j :: js → s.unconfirmed l.ref = false → s.cset (setOf l.ref) = some c →
    let dbl := decide (wd = .d)
    let top := if gal then 0x800000 else 0x100000
    let outside (va : Nat) : Prop := if gal then (∀ m, s.member c (va / 0x100000) = some m → m.win ≤ va % 0x100000) else c.win ≤ va
    let inside (m : CSet) (va off : Nat) : Prop := if gal then s.member c (va / 0x100000) = some m ∧ off = va % 0x100000 ∧ off < m.win
      else m = c ∧ off = va ∧ off < m.win
    let traps (i : Instr) (j va cls : Nat) : Prop := exec i s = .next (s.trapEntry l { cls := cls, addr := va } l.pc j l.pc (iword i) j)
    let faults (i : Instr) (j va : Nat) (aligned : Prop) (unit : Nat) : Prop :=
      (top ≤ va → traps i j va 0x04) ∧ (va < top → ¬ aligned → traps i j va 0x05) ∧
      (va < top → aligned → outside (va / unit * unit) → traps i j va 0x06)
    (let va := (l.x j a + l.kr b).toNat
     l.okX dbl d = true → l.okX false a = true → l.okK false b = true → readyRegs l (a.val :: regs dbl d) [b] →
      ∀ i ∈ [if gal then Instr.ldgal t wd sx (.r d) (.r a) (.r b) else .lds t wd sx (.r d) (.r a) (.r b),
        if gal then Instr.stgal rel fill wd (.r d) (.r a) (.r b) else .sts rel fill wd (.r d) (.r a) (.r b)],
        faults i j va (va % wd.bytes = 0) 1 ∧
        (∀ m off, i = (if gal then Instr.stgal rel fill wd (.r d) (.r a) (.r b) else .sts rel fill wd (.r d) (.r a) (.r b)) → va % wd.bytes = 0 →
          va < top → inside m va off → s.acquiring l.ref = false → s.barPending m.ref (off / 16) = false → m.isMark (off / 16) = true → traps i j va 0x0A)) ∧
    (let va := (l.x j a).toNat
     let i := if gal then Instr.atgal op o (.r d) (.r a) (.r b) else .ats op o (.r d) (.r a) (.r b)
     atomTypes op l.ty = true → l.okX l.ty.dbl d = true → l.okX false a = true → l.okX l.ty.dbl b = true →
      readyRegs l (a.val :: (regs l.ty.dbl b ++ regs l.ty.dbl d)) [] →
      faults i j va (va % (l.ty.bits / 8) = 0) 1 ∧
      (∀ m off, va % (l.ty.bits / 8) = 0 → va < top → inside m va off → s.readsHeld l = false → s.barPending m.ref (off / 16) = false →
        m.isMark (off / 16) = true → traps i j va 0x0A)) ∧
    (let va := (l.x j a).toNat
     l.okX false a = true → l.okX false b = true → readyRegs l [a, b] [] →
      (∀ i ∈ [Instr.barinit gal (.r a) (.r b), .bararrive gal (.r a) (.r b), .barinv gal (.r a)], faults i j va (va % 16 = 0) 16) ∧
      (0 < d.val → d.val < 8 → faults (.barwait gal (.r d) (.r a)) j va (va % 16 < 2) 16)) ∧
    (let va := (l.kr a).toNat
     let i := Instr.waita gal (.r a)
     l.okK false a = true → readyRegs l [] [a] →
      faults i 0 va (va % 16 = 0) 16 ∧
      (∀ m off, va % 16 = 0 → va < top → inside m va off → l.status ≠ .wait .filled → s.acquiring l.ref = false → m.isMark (off / 16) = true →
        traps i 0 va 0x0A))

/-- The accesses to scratchpad and gallery: what they enter in their banks, and where they fault.
Which of several faults is taken is the order of R211 and R257. -/
def Obligations.LocalAccesses : Prop := LocalAccessesEnterTheirBanks ∧ LocalAddressesFault

/-- R153: the .take loads of the threads of one instruction that address one granule are one run: each enters the bank's queue under the run's
number, and the end of the instruction sends the clearing of the granule's tag behind them. -/
def TakeLoadsOpenARun : Prop :=
  ∀ (s : State) (l : Line) (gal : Bool) (wd : Width) (sx : Bool) (d a b : Fin 32) (w : CSet) (g : Nat) (o : Nat → Nat), IssuesAll s l →
    l.issueThreads ≠ [] →
    let dbl := decide (wd = .d)
    l.okX dbl d = true → l.okX false a = true → l.okK false b = true → readyRegs l (a.val :: regs dbl d) [b] → l.takeRun = none →
    (∀ j ∈ l.issueThreads, s.localAddr l gal (l.x j a + l.kr b).toNat wd.bytes = .ok (w, o j) ∧ o j / 16 = g) →
    s.readsHeld l = false → s.unconfirmed l.ref = false → s.bankLoad w.core (g % 32) + l.issueThreads.length ≤ 16 →
    let i := if gal then Instr.ldgal .take wd sx (.r d) (.r a) (.r b) else .lds .take wd sx (.r d) (.r a) (.r b)
    let n := l.issueThreads.length
    let pend := if d = 0 then l.pend else l.pend ++ (l.issueThreads.map fun j => (regs dbl d).map fun n => (j, n)).flatten
    exec i s = .next
      ({ s with
          bankQ := s.bankQ ++ l.issueThreads.zipIdx.map (fun (p : Nat × Nat) => ({
              set := w.ref, id := s.nextId + 1 + p.2, issuer := l.ref, thread := p.1, off := o p.1, size := wd.bytes,
              op := .load .take (if d = 0 then none else some d.val) sx false, val := 0, run := s.nextId, pc := l.pc, word := iword i,
              ino := l.issueNo, gal := gal } : BankReq)) ++
            [({ set := w.ref, id := s.nextId + 1 + n, issuer := l.ref, thread := 0, off := g * 16, size := 16, op := .clear, val := 0,
                run := s.nextId, pc := l.pc, word := 0, gal := decide (w.ref ≠ setOf l.ref) } : BankReq)]
          nextId := s.nextId + n + 2 }.setLine { { l with pend := pend }.next with takeRun := none })

/-- R164, R176, R257, R259, R411: LDG of one thread travels to the place that its address translates to, or, without .acq, takes its value from a
leased copy of its core, where a word with an uncorrectable error gives the fault in place of a value; the line goes on with the register pending.
A misaligned address and one with a bit set above bit 56 fault. That a copy in an L1 keeps which of its words are bad is the model's reading
(assumption 25). -/
def GlobalLoadOfOneThread : Prop :=
  ∀ (s : State) (l : Line) (j : Nat) (acq sx : Bool) (wd : Width) (d a b : Fin 32) (p : Place) (tr : List TabRef), Issues s l →
    l.issueThreads = [j] →
    let dbl := decide (wd = .d)
    l.okX dbl d = true → l.okX true a = true → l.okK false b = true → readyRegs l (regs true a ++ regs dbl d) [b] →
    let va := (l.xd j a + (l.kr b).signExtend 64).toNat
    let i := Instr.ldg acq wd sx (.r d) (.r a) (.r b)
    (va < 2 ^ 57 → va % wd.bytes = 0 → s.readsHeld l = false → s.walking l.ref = false → l.takeRun = none →
      s.translate (some l.core) (coreDie l.core) l.part false va false (!l.pl) = .hit p tr → (∀ r off, p ≠ .spad r off) →
      ∃ t acc, exec i s = .next t ∧ t.flight = s.flight ++ [acc] ∧ acc.kind = .load ∧ acc.place = p ∧ acc.size = wd.bytes ∧ acc.acq = acq ∧
        acc.sx = sx ∧ acc.dst = (if d = 0 then none else some d.val) ∧ acc.issuer = .line l.ref j ∧
        (acq = true ∨ (∀ ca, p = .dev ca → s.l1Hit l.core (lineOf ca) = none) → l.fetched = [] → acc.phase = .sent) ∧
        (∀ ca e, acq = false → p = .dev ca → s.l1Hit l.core (lineOf ca) = some e → l.fetched = [] → s.flight = [] →
          s.ownPending l.ref (.dev ca) wd.bytes = false → acc.phase = .performed 0 ∧
          (meetsBad e.bad (ca % 128) wd.bytes = false → acc.failed = none ∧ acc.val = leNat ((e.bytes.drop (ca % 128)).take wd.bytes)) ∧
          (meetsBad e.bad (ca % 128) wd.bytes = true → ∃ r, acc.failed = some r ∧ r.cls = 0x14)) ∧
        t.bankQ = s.bankQ ∧ LeavesTheRest s t l ∧ t.line l.ref = some (goesOnWaitingFor l j dbl d)) ∧
    (2 ^ 57 ≤ va → s.unconfirmed l.ref = false → ∃ f, exec i s = .next (s.trapEntry l f l.pc j l.pc (iword i) j) ∧ f.cls = 0x04 ∧ f.addr = va) ∧
    (va < 2 ^ 57 → va % wd.bytes ≠ 0 → s.unconfirmed l.ref = false →
      ∃ f, exec i s = .next (s.trapEntry l f l.pc j l.pc (iword i) j) ∧ f.cls = 0x05 ∧ f.addr = va)

/-- R257, R259: LDG of several threads whose lines the core holds no copy of: one access for each thread, in ascending thread order. -/
def GlobalLoadsOfThreads : Prop :=
  ∀ (s : State) (l : Line) (sx : Bool) (wd : Width) (d a b : Fin 32) (p : Nat → Place) (tr : Nat → List TabRef), IssuesAll s l →
    let dbl := decide (wd = .d)
    l.okX dbl d = true → l.okX true a = true → l.okK false b = true → readyRegs l (regs true a ++ regs dbl d) [b] → l.fetched = [] →
    s.readsHeld l = false → s.walking l.ref = false → l.takeRun = none →
    let va (j : Nat) : Nat := (l.xd j a + (l.kr b).signExtend 64).toNat
    let i := Instr.ldg false wd sx (.r d) (.r a) (.r b)
    (∀ j ∈ l.issueThreads, va j < 2 ^ 57 ∧ va j % wd.bytes = 0 ∧
      s.translate (some l.core) (coreDie l.core) l.part false (va j) false (!l.pl) = .hit (p j) (tr j) ∧ (∀ r off, p j ≠ .spad r off) ∧
      ∀ ca, p j = .dev ca → s.l1Hit l.core (lineOf ca) = none) →
    let pend := if d = 0 then l.pend else l.pend ++ (l.issueThreads.map fun j => (regs dbl d).map fun n => (j, n)).flatten
    exec i s = .next
      ({ s with
          flight := s.flight ++ l.issueThreads.zipIdx.map fun (x : Nat × Nat) => ({
            set := l.ref.set, id := s.nextId + x.2, issuer := .line l.ref x.1, part := l.part, grid := l.ref.grid, core := l.core,
            kind := .load, phase := .sent, va := va x.1, place := p x.1, size := wd.bytes, val := 0, cmp := 0,
            dst := if d = 0 then none else some d.val, sx := sx, acq := false, rel := none, staged := false, prov := false, ino := l.issueNo,
            pc := l.pc, word := iword i, check := [], trans := tr x.1, failed := none } : Access)
          nextId := s.nextId + l.issueThreads.length }.setLine { { l with pend := pend }.next with takeRun := none })

/-- The global loads, of one thread and of several. That a load waits for an earlier tagged load is the model's reading (assumption 61). -/
def Obligations.GlobalLoadsTravel : Prop := GlobalLoadOfOneThread ∧ GlobalLoadsOfThreads

/-- R194, R196, R265, R267: STG and ATG of one thread. With the translation at hand the write is confirmed and travels; without it a walk
begins, the write is provisional, and the line goes on with its state kept for R197. -/
def GlobalWriteOfOneThread : Prop :=
  ∀ (s : State) (l : Line) (j : Nat) (wd : Width) (rel : Option Scope) (op : AtomOp) (o : Sys2Proof.Ordering) (d a b : Fin 32), Issues s l →
    l.issueThreads = [j] → s.acquiring l.ref = false → l.takeRun = none → (∀ g, s.grid l.ref.grid = some g → bit (g.pkt.getD 0 0) 7 = false) →
    let goes (i : Instr) (va size val cmp : Nat) (kind : AccKind) (rel : Option Scope) (l' : Line) : Prop :=
      (∀ ca tr, s.translate (some l.core) (coreDie l.core) l.part false va true (!l.pl) = .hit (.dev ca) tr →
        (s.part l.part).regionRefuses ca 1 l.gtag (some (match s.grid l.ref.grid with | some g => fld (g.pkt.getD 0 0) 8 2 | none => 0)) = false →
        ∃ t acc, exec i s = .next t ∧ t.flight = s.flight ++ [acc] ∧ acc.kind = kind ∧ acc.phase = .sent ∧ acc.place = .dev ca ∧ acc.size = size ∧
          acc.val = val ∧ acc.cmp = cmp ∧ acc.rel = rel ∧ t.bankQ = s.bankQ ∧ LeavesTheRest s t l ∧ t.line l.ref = some l') ∧
      (s.translate (some l.core) (coreDie l.core) l.part false va true (!l.pl) = .miss →
        ∃ t acc k, exec i s = .next t ∧ t.flight = s.flight ++ [acc] ∧ acc.kind = kind ∧ acc.phase = .unconfirmed k ∧ acc.check = [{ l with tri := j }] ∧
          acc.val = val ∧ (∃ w ∈ t.walks, w.id = k) ∧ t.bankQ = s.bankQ ∧ LeavesTheRest s t l ∧ t.line l.ref = some l')
    (let dbl := decide (wd = .d)
     let va := (l.xd j a + (l.kr b).signExtend 64).toNat
     l.okX dbl d = true → l.okX true a = true → l.okK false b = true → readyRegs l (regs true a ++ regs dbl d) [b] → va < 2 ^ 57 → va % wd.bytes = 0 →
      goes (.stg rel wd (.r d) (.r a) (.r b)) va wd.bytes ((if wd = .d then (l.xd j d).toNat else (l.x j d).toNat) % 2 ^ (8 * wd.bytes)) 0 .store rel
        { l.next with takeRun := none }) ∧
    (let va := (l.xd j a).toNat
     let v (n : Fin 32) : Nat := if l.ty.dbl then (l.xd j n).toNat else (l.x j n).toNat
     s.awaitsTag l = false → atomTypes op l.ty = true → l.okX l.ty.dbl d = true → l.okX true a = true → l.okX l.ty.dbl b = true →
      readyRegs l (regs true a ++ regs l.ty.dbl b ++ regs l.ty.dbl d) [] → va < 2 ^ 57 → va % (l.ty.bits / 8) = 0 →
      goes (.atg op o (.r d) (.r a) (.r b)) va (l.ty.bits / 8) (v b) (v d) (.atomic op l.ty)
        (if o = .rel ∨ o = .acqrel then some .dev else none) (goesOnWaitingFor l j l.ty.dbl d))

/-- R194, R265, R267: STG, and ATG without an acquire, of several threads whose translations are at hand: one confirmed access for each thread,
in ascending thread order. -/
def GlobalWritesOfThreads : Prop :=
  ∀ (s : State) (l : Line) (wd : Width) (rel : Option Scope) (op : AtomOp) (o : Sys2Proof.Ordering) (d a b : Fin 32) (ca : Nat → Nat)
    (tr : Nat → List TabRef), IssuesAll s l → s.acquiring l.ref = false → l.takeRun = none →
    (∀ g, s.grid l.ref.grid = some g → bit (g.pkt.getD 0 0) 7 = false) → l.okX true a = true →
    let phase := match s.grid l.ref.grid with | some g => fld (g.pkt.getD 0 0) 8 2 | none => 0
    let send (i : Instr) (va : Nat → Nat) (size : Nat) (val cmp : Nat → Nat) (kind : AccKind) (dst : Option Nat) (rel : Option Scope)
        (l' : Line) : Prop :=
      (∀ j ∈ l.issueThreads, va j < 2 ^ 57 ∧ va j % size = 0 ∧
        s.translate (some l.core) (coreDie l.core) l.part false (va j) true (!l.pl) = .hit (.dev (ca j)) (tr j) ∧
        (s.part l.part).regionRefuses (ca j) 1 l.gtag (some phase) = false) →
      exec i s = .next
        ({ s with
            flight := s.flight ++ l.issueThreads.zipIdx.map fun (x : Nat × Nat) => ({
              set := l.ref.set, id := s.nextId + x.2, issuer := .line l.ref x.1, part := l.part, grid := l.ref.grid, core := l.core,
              kind := kind, phase := .sent, va := va x.1, place := .dev (ca x.1), size := size, val := val x.1, cmp := cmp x.1, dst := dst,
              sx := false, acq := false, rel := rel, staged := false, prov := s.unconfirmed l.ref, ino := l.issueNo, pc := l.pc,
              word := iword i, check := [], trans := tr x.1, failed := none } : Access)
            nextId := s.nextId + l.issueThreads.length }.setLine { l'.next with takeRun := none })
    (let dbl := decide (wd = .d)
     l.okX dbl d = true → l.okK false b = true → readyRegs l (regs true a ++ regs dbl d) [b] →
      send (.stg rel wd (.r d) (.r a) (.r b)) (fun j => (l.xd j a + (l.kr b).signExtend 64).toNat) wd.bytes
        (fun j => (if wd = .d then (l.xd j d).toNat else (l.x j d).toNat) % 2 ^ (8 * wd.bytes)) (fun _ => 0) .store none rel l) ∧
    (let v (n : Fin 32) (j : Nat) : Nat := if l.ty.dbl then (l.xd j n).toNat else (l.x j n).toNat
     s.awaitsTag l = false → atomTypes op l.ty = true → o = .relaxed ∨ o = .rel → l.okX l.ty.dbl d = true → l.okX l.ty.dbl b = true →
      readyRegs l (regs true a ++ regs l.ty.dbl b ++ regs l.ty.dbl d) [] →
      send (.atg op o (.r d) (.r a) (.r b)) (fun j => (l.xd j a).toNat) (l.ty.bits / 8) (v b) (v d) (.atomic op l.ty)
        (if d = 0 then none else some d.val) (if o = .rel then some .dev else none)
        { l with pend := if d = 0 then l.pend else l.pend ++ (l.issueThreads.map fun j => (regs l.ty.dbl d).map fun n => (j, n)).flatten })

/-- The global writes, of one thread and of several. Which instructions wait for a provisional write is the model's reading (assumption 14). -/
def Obligations.GlobalWritesTravel : Prop := GlobalWriteOfOneThread ∧ GlobalWritesOfThreads

/-- R266, R267: ATS and ATGAL of one thread enter one atomic request in the bank of their address. -/
def LocalAtomicsEnterTheirBank : Prop :=
  ∀ (s : State) (l : Line) (gal : Bool) (j : Nat) (op : AtomOp) (o : Sys2Proof.Ordering) (d a b : Fin 32) (w : CSet) (off : Nat), Issues s l →
    l.issueThreads = [j] → atomTypes op l.ty = true → l.okX l.ty.dbl d = true → l.okX false a = true → l.okX l.ty.dbl b = true →
    readyRegs l (a.val :: (regs l.ty.dbl b ++ regs l.ty.dbl d)) [] → l.takeRun = none →
    s.localAddr l gal (l.x j a).toNat (l.ty.bits / 8) = .ok (w, off) → s.readsHeld l = false → s.barPending w.ref (off / 16) = false →
    w.isMark (off / 16) = false → s.unconfirmed l.ref = false → s.bankLoad w.core (CSet.bankOf off) < 16 →
    let i := if gal then Instr.atgal op o (.r d) (.r a) (.r b) else .ats op o (.r d) (.r a) (.r b)
    let v (n : Fin 32) : Nat := if l.ty.dbl then (l.xd j n).toNat else (l.x j n).toNat
    ∃ t q, exec i s = .next t ∧ t.bankQ = s.bankQ ++ [q] ∧ q.set = w.ref ∧ q.off = off ∧ q.size = l.ty.bits / 8 ∧ q.val = v b ∧ q.thread = j ∧
      q.op = .atomic op l.ty (if d = 0 then none else some d.val) (v d)
        (if o = .rel ∨ o = .acqrel then some (if gal then .hall else .set) else none) (decide (o = .acq ∨ o = .acqrel)) ∧
      t.flight = s.flight ∧ LeavesTheRest s t l ∧ t.line l.ref = some (goesOnWaitingFor l j l.ty.dbl d)

/-- The `.take` loads and the atomics on scratchpad and gallery.
The clearing of a granule's tag as a request behind its run is the model's reading (assumption 16). -/
def Obligations.TakeLoadsAndLocalAtomics : Prop := TakeLoadsOpenARun ∧ LocalAtomicsEnterTheirBank

/-- The packet of peer accesses of line l to the 128-byte line that `va` names (R333): its fields but for what the accesses put into it. -/
def peerPacket (s : State) (l : Line) (va ty mask aux : Nat) (ext data : List Byte) : Packet :=
  { ty, dpkg := peerPkg va, ddie := peerDie va, spkg := s.pkg.domid, sdie := coreDie l.core, rly := false, enc := false, cls := s.classOf l.ref,
    dlen := 0, seq := tget 0 s.fab.seqs (queueNo (coreDie l.core) (peerPkg va) (peerDie va) (s.classOf l.ref)), addr := peerVa va, aux, mask,
    ext, data }

/-- One packet `p` alone has entered the send buffer, for accesses of line l whose first thread is j, and its answer is awaited as `q` says. -/
def EntersOnePacket (s t : State) (l : Line) (j : Nat) (p : Packet) (q : PeerWait) : Prop :=
  (∃ e, t.fab.sendQ = [e] ∧ e.item = .packet p ∧ e.pkg = p.dpkg ∧ e.ddie = p.ddie ∧ e.cls = p.cls ∧ e.part = l.part ∧ e.held = q.rel ∧
    e.sent = false ∧ e.id = q.id) ∧
  t.fab.waits = s.fab.waits ++ [q] ∧ q.id = s.nextId ∧ q.issuer = l.ref ∧ q.seq = p.seq ∧ q.pkg = p.dpkg ∧ q.ddie = p.ddie ∧ q.done = none ∧
  q.elem = j ∧ t.nextId = s.nextId + 1 ∧ t.flight = s.flight ∧ t.bankQ = s.bankQ ∧ LeavesTheRest s t l

/-- The mask bits of `n` bytes at an address in their 128-byte line. -/
def byteMask (va n : Nat) : Nat := (2 ^ n - 1) * 2 ^ (va % 128)

/-- `n` bytes at an address in their 128-byte line, zeros beside them. -/
def lineData (va : Nat) (bs : List Byte) : List Byte := patch (List.replicate 128 0) (va % 128) bs

/-- R176, R259, R265, R333 to R335, R285: LDP, STP, ATP and REDP of one thread, in every ordering, enter one packet in the send queue of their
destination, when it is reachable and the send buffer has room: its type, its mask, and with it the data of a store and of a contribution, the
operands of an atomic, the descriptor, the reduction word and the type of a contribution. Without room the line waits; an unreachable destination
faults. -/
def PeerAccessOfOneThread : Prop :=
  ∀ (s : State) (l : Line) (j : Nat) (acq : Bool) (rel : Option Scope) (wd : Width) (sx : Bool) (op : AtomOp) (o : Sys2Proof.Ordering)
    (d a b : Fin 32), Issues s l → l.issueThreads = [j] →
    s.acquiring l.ref = false → s.unconfirmed l.ref = false → l.takeRun = none → s.fab.sendQ = [] →
    let enters (i : Instr) (va ty mask aux : Nat) (ext data : List Byte) (want : PeerWait → Prop) (l' : Line) : Prop :=
      (s.reachable l.part (peerPkg va) (peerDie va) = true →
        (s.sendRoom (coreDie l.core) l.part (packetLen ty mask false) = true →
          ∃ t q, exec i s = .next t ∧ EntersOnePacket s t l j (peerPacket s l va ty mask aux ext data) q ∧ want q ∧ t.line l.ref = some l') ∧
        (s.sendRoom (coreDie l.core) l.part (packetLen ty mask false) = false → exec i s = .next (s.park l .sendRoom j))) ∧
      (s.reachable l.part (peerPkg va) (peerDie va) = false →
        ∃ f, exec i s = .next (s.trapEntry l f l.pc j l.pc (iword i) j) ∧ f.cls = 0x0F ∧ f.addr = va)
    let dst : Option Nat := if d = 0 then none else some d.val
    l.okX true a = true →
    (let dbl := decide (wd = .d)
     let va := (l.xd j a + (l.kr b).signExtend 64).toNat
     l.okX dbl d = true → l.okK false b = true → readyRegs l (regs true a ++ regs dbl d) [b] → va % wd.bytes = 0 →
      (s.awaitsTag l = false → enters (.ldp acq wd sx (.r d) (.r a) (.r b)) va 2 (byteMask va wd.bytes) 0 [] (lineData va [])
        (fun q => q.kind = .load ∧ q.dsts = [(j, dst, va % 128, wd.bytes)] ∧ q.sx = sx ∧ q.acq = acq ∧ q.rel = none) (goesOnWaitingFor l j dbl d)) ∧
      enters (.stp rel wd (.r d) (.r a) (.r b)) va 1 (byteMask va wd.bytes) 0 []
        (lineData va (bytesOf ((if wd = .d then (l.xd j d).toNat else (l.x j d).toNat) % 2 ^ (8 * wd.bytes)) wd.bytes))
        (fun q => q.kind = .store ∧ q.dsts = [] ∧ q.acq = false ∧ q.rel = rel) { l.next with takeRun := none }) ∧
    (let va := (l.xd j a).toNat
     let v (n : Fin 32) : Nat := if l.ty.dbl then (l.xd j n).toNat else (l.x j n).toNat
     s.awaitsTag l = false → atomTypes op l.ty = true → l.okX l.ty.dbl d = true → l.okX l.ty.dbl b = true →
      readyRegs l (regs true a ++ regs l.ty.dbl b ++ regs l.ty.dbl d) [] → va % (l.ty.bits / 8) = 0 →
      enters (.atp op o (.r d) (.r a) (.r b)) va 4 (byteMask va (l.ty.bits / 8)) (op.code + (if l.ty.dbl then 3 else 2) * 16)
        (bytesOf (v b) 8 ++ bytesOf (v d) 8) (lineData va [])
        (fun q => q.kind = .atomic op l.ty ∧ q.dsts = [(j, dst, va % 128, l.ty.bits / 8)] ∧ q.acq = decide (o = .acq ∨ o = .acqrel) ∧
          q.rel = if o = .rel ∨ o = .acqrel then some .dom else none) (goesOnWaitingFor l j l.ty.dbl d)) ∧
    (let va := (l.xd j a).toNat
     l.ty = .s32 → l.okX false d = true → l.okK false b = true → readyRegs l (d.val :: regs true a) [b] →
      fld (l.kr b) 24 8 = 0 → fld (l.kr b) 0 12 ≤ fld (l.kr b) 12 12 → va % 4 = 0 →
      enters (.redp (.r d) (.r a) (.r b)) va 6 (2 ^ (va % 128 / 4)) 0
        (bytesOf l.d0.toNat 4 ++ bytesOf l.d1.toNat 4 ++ bytesOf (l.kr b).toNat 4 ++ bytesOf (fld l.lmode 4 5) 4)
        (lineData va (bytesOf (l.x j d).toNat 4)) (fun q => q.kind = .store ∧ q.red = true ∧ q.rel = none) { l.next with takeRun := none })

/-- R259, R334: the threads of one LDP, STP or REDP that address one 128-byte line, a REDP's different elements of it, share one packet: its mask
is theirs together, each store's data stands at its place, and its address is the lowest. -/
def PeerAccessesGather : Prop :=
  ∀ (s : State) (l : Line) (j : Nat) (js : List Nat) (acq : Bool) (rel : Option Scope) (wd : Width) (sx : Bool) (d a b : Fin 32) (ln : Nat),
    IssuesAll s l → l.issueThreads = j :: js → s.acquiring l.ref = false → s.unconfirmed l.ref = false → l.takeRun = none → s.fab.sendQ = [] →
    l.okX true a = true → l.okK false b = true →
    let one (i : Instr) (va : Nat → Nat) (ty n : Nat) (mask : Nat → Nat) (ext : List Byte) (data : Nat → List Byte) (want : PeerWait → Prop)
        (l' : Line) : Prop :=
      let bits := (j :: js).foldl (fun m k => m ||| mask k) 0
      (∀ k ∈ j :: js, va k / 128 = ln ∧ va k % n = 0) → s.reachable l.part (peerPkg (va j)) (peerDie (va j)) = true →
      s.sendRoom (coreDie l.core) l.part (packetLen ty bits false) = true →
      ∃ t q, exec i s = .next t ∧
        EntersOnePacket s t l j { peerPacket s l (va j) ty bits 0 ext
            ((j :: js).foldl (fun bs k => patch bs (va k % 128) (data k)) (List.replicate 128 0)) with
          addr := js.foldl (fun m k => min m (peerVa (va k))) (peerVa (va j)) } q ∧ want q ∧ t.line l.ref = some { l'.next with takeRun := none }
    (let dbl := decide (wd = .d)
     let va (k : Nat) : Nat := (l.xd k a + (l.kr b).signExtend 64).toNat
     l.okX dbl d = true → readyRegs l (regs true a ++ regs dbl d) [b] →
      (s.awaitsTag l = false → one (.ldp acq wd sx (.r d) (.r a) (.r b)) va 2 wd.bytes (fun k => byteMask (va k) wd.bytes) [] (fun _ => [])
        (fun q => q.kind = .load ∧ q.acq = acq ∧
          q.dsts = (j :: js).map fun k => (k, if d = 0 then none else some d.val, va k % 128, wd.bytes))
        { l with pend := if d = 0 then l.pend else l.pend ++ ((j :: js).map fun k => (regs dbl d).map fun n => (k, n)).flatten }) ∧
      one (.stp rel wd (.r d) (.r a) (.r b)) va 1 wd.bytes (fun k => byteMask (va k) wd.bytes) []
        (fun k => bytesOf ((if wd = .d then (l.xd k d).toNat else (l.x k d).toNat) % 2 ^ (8 * wd.bytes)) wd.bytes)
        (fun q => q.kind = .store ∧ q.dsts = [] ∧ q.rel = rel) l) ∧
    (let va (k : Nat) : Nat := (l.xd k a).toNat
     l.ty = .s32 → l.okX false d = true → readyRegs l (d.val :: regs true a) [b] → fld (l.kr b) 24 8 = 0 →
      fld (l.kr b) 0 12 ≤ fld (l.kr b) 12 12 → (∀ k ∈ j :: js, ∀ m ∈ j :: js, k ≠ m → va k ≠ va m) →
      one (.redp (.r d) (.r a) (.r b)) va 6 4 (fun k => 2 ^ (va k % 128 / 4))
        (bytesOf l.d0.toNat 4 ++ bytesOf l.d1.toNat 4 ++ bytesOf (l.kr b).toNat 4 ++ bytesOf (fld l.lmode 4 5) 4)
        (fun k => bytesOf (l.x k d).toNat 4) (fun q => q.kind = .store ∧ q.red = true) l)

/-- R259, R334: each thread of an ATP without an acquire has a packet of its own, in ascending thread order. -/
def PeerAtomicsOfThreads : Prop :=
  ∀ (s : State) (l : Line) (op : AtomOp) (o : Sys2Proof.Ordering) (d a b : Fin 32), IssuesAll s l → o = .relaxed ∨ o = .rel →
    s.acquiring l.ref = false → s.unconfirmed l.ref = false → l.takeRun = none → s.fab.sendQ = [] → s.awaitsTag l = false →
    atomTypes op l.ty = true → l.okX l.ty.dbl d = true → l.okX true a = true → l.okX l.ty.dbl b = true →
    readyRegs l (regs true a ++ regs l.ty.dbl b ++ regs l.ty.dbl d) [] →
    let va (j : Nat) : Nat := (l.xd j a).toNat
    let v (n : Fin 32) (j : Nat) : Nat := if l.ty.dbl then (l.xd j n).toNat else (l.x j n).toNat
    (∀ j ∈ l.issueThreads, va j % (l.ty.bits / 8) = 0 ∧ s.reachable l.part (peerPkg (va j)) (peerDie (va j)) = true) →
    s.sendRoom (coreDie l.core) l.part (32 * l.issueThreads.length) = true →
    ∃ t, exec (.atp op o (.r d) (.r a) (.r b)) s = .next t ∧ t.fab.sendQ.length = l.issueThreads.length ∧
      (∀ (n j : Nat), l.issueThreads[n]? = some j → ∃ (e : SendEnt) (p : Packet), t.fab.sendQ[n]? = some e ∧ e.item = .packet p ∧ p.ty = 4 ∧ p.dpkg = peerPkg (va j) ∧
        p.ddie = peerDie (va j) ∧ p.addr = peerVa (va j) ∧ p.aux = op.code + (if l.ty.dbl then 3 else 2) * 16 ∧
        p.ext = bytesOf (v b j) 8 ++ bytesOf (v d j) 8 ∧ e.held = if o = .rel then some .dom else none) ∧
      t.flight = s.flight ∧ t.bankQ = s.bankQ ∧ LeavesTheRest s t l ∧
      t.line l.ref = some { l.next with
        takeRun := none
        pend := if d = 0 then l.pend else l.pend ++ (l.issueThreads.map fun j => (regs l.ty.dbl d).map fun n => (j, n)).flatten }

/-- The peer accesses: of one thread, gathered from several, and the atomics, which are not gathered.
Which bytes of an extension hold which operand, where in a packet's 128 bytes its data stand in the send buffer, and the room asked for are the
model's choices (assumptions 50, 77); that the loads of one LDP do not wait for one another is its reading (assumption 94). -/
def Obligations.PeerAccessesEnterTheSendQueue : Prop := PeerAccessOfOneThread ∧ PeerAccessesGather ∧ PeerAtomicsOfThreads

/-- R173, R187, R271, R287, R288: FENCE, QFENCE and IFENCE complete at once when what they wait for holds and no error has reached the
line, and otherwise the line waits; IFENCE empties the core's instruction cache. FDRAIN enters a marker, and SQSTAT reads. -/
def FencesAndDrains : Prop :=
  ∀ (s : State) (l : Line) (sc : Scope) (m : BitVec 6) (d a : Fin 32), Issues s l → l.takeRun = none →
    (l.failed = [] → l.errs = [] → s.fenceOk l sc s.nextId = true → LineTo (.fence sc) s l l) ∧
    (s.fenceOk l sc s.nextId = false → exec (.fence sc) s = .next (s.setLine { l with status := .wait (.fence sc), tri := 0 })) ∧
    (l.errs = [] → s.qfenceOk l m.toNat = true → LineTo (.qfence m) s l l) ∧
    (s.ifenceOk l = true → exec .ifence s =
      .next ({ s with icache := s.icache.filter fun (e : ICLine) => decide (e.core ≠ l.core) }.setLine { l.next with takeRun := none })) ∧
    (l.okK false a = true → readyRegs l [] [a] → fld (l.kr a) 13 19 = 0 → s.acquiring l.ref = false → s.unconfirmed l.ref = false →
      ∃ e : SendEnt, e.item = .marker l.ref ∧ e.pkg = fld (l.kr a) 0 12 ∧ e.ddie = fld (l.kr a) 12 1 ∧
        SupTo (.fdrain (.r a)) s { s with fab := { s.fab with sendQ := s.fab.sendQ ++ [e] }, nextId := s.nextId + 1 } l l) ∧
    (l.okK false d = true → l.okK false a = true → readyRegs l [] [a, d] → fld (l.kr a) 13 19 = 0 →
      LineTo (.sqstat (.r d) (.r a)) s l (l.setK d (s.sqstat l (fld (l.kr a) 0 12) (fld (l.kr a) 12 1))))

/-- R271, R174, R379: a parked FENCE completes at FENCE_COMPLETE once its conditions hold, and not while its set is stopping. -/
def FenceCompletes : Prop :=
  ∀ (s : State) (l : Line) (sc : Scope), s.line l.ref = some l → l.failed = [] → l.errs = [] → l.takeRun = none →
    (l.status = .wait (.fence sc) → s.fenceOk l sc s.nextId = true → s.stopping l.ref = false →
      exec (.fenceComplete l.ref) s = .next (s.setLine { l.next with takeRun := none })) ∧
    (l.status = .wait (.fence sc) → s.stopping l.ref = true → exec (.fenceComplete l.ref) s = .next s) ∧
    (l.status = .wait (.fence sc) → s.fenceOk l sc s.nextId = false → exec (.fenceComplete l.ref) s = .next s)

/-- The fences, the queue fences, IFENCE and FDRAIN, and the completion of a wait for them.
What a fence waits for beyond the table of R173 is the model's reading (assumption 85). -/
def Obligations.FencesAndTheirCompletion : Prop := FencesAndDrains ∧ FenceCompletes

/-- R272 to R277: each barrier instruction enters one step for its first thread in the bank of its granule and waits for it (an arrival
once the release of R274 may pass); WAITA completes on a full granule, waits on an empty one, and completes when its granule has been filled
since. -/
def Obligations.BarrierInstructionsEnterTheirStep : Prop :=
  ∀ (s : State) (l : Line) (gal : Bool) (j : Nat) (d a b : Fin 32) (w : CSet) (off : Nat), Issues s l → s.acquiring l.ref = false →
    let addr := (l.x j a).toNat
    (l.issueThreads.head? = some j → l.okX false a = true → l.okX false b = true → readyRegs l [a, b] [] → s.unconfirmed l.ref = false →
      s.localAddr l gal (addr / 16 * 16) 1 = .ok (w, off) → s.bankLoad w.core (CSet.bankOf off) < 16 →
      addr < (if gal then 0x800000 else 0x100000) →
      let enters (i : Instr) (op : BankOp) (v : Nat) : Prop := exec i s = .next
        ({ s with
            bankQ := s.bankQ ++ [({
              set := w.ref, id := s.nextId, issuer := l.ref, thread := j, off := off, size := 16, op := op, val := v, run := 0, pc := l.pc,
              word := iword i, gal := gal } : BankReq)]
            nextId := s.nextId + 1 }.setLine { l with status := .wait .barStep, tri := j })
      (addr % 16 = 0 →
        enters (.barinit gal (.r a) (.r b)) .barInit (l.x j b).toNat ∧
        (s.fenceOk l (if gal then .hall else .set) s.nextId = true → enters (.bararrive gal (.r a) (.r b)) .barArrive (l.x j b).toNat) ∧
        enters (.barinv gal (.r a)) .barInv 0) ∧
      (addr % 16 < 2 → 0 < d.val → (h : d.val < 8) → enters (.barwait gal (.r d) (.r a)) (.barWait ⟨d, h⟩) (addr % 2))) ∧
    (l.okK false a = true → readyRegs l [] [a] → s.localAddr l gal (l.kr a).toNat 16 = .ok (w, off) →
      (l.status = .wait .filled → LineTo (.waita gal (.r a)) s l l) ∧
      (l.status ≠ .wait .filled → w.isMark (off / 16) = false → s.ownBank l.ref w.ref (off / 16) = false → s.bankBusy w off = false →
        (w.isFull (off / 16) = true → LineTo (.waita gal (.r a)) s l l) ∧
        (w.isFull (off / 16) = false → exec (.waita gal (.r a)) s =
          .next (s.setLine { l with status := .wait (.full w.ref (off / 16)), tri := 0 }))))

/-- R151 to R154, R277: BANK_SERVE takes the first request of a bank. A load whose tag condition holds reads its bytes and its value
travels, and one whose condition does not hold waits at its granule; a store writes its bytes, and with .fill its granule is full and the
lines that WAITA parked there are done; the clearing of a `.take` run empties its granule. -/
def BanksServeLoadsAndStores : Prop :=
  ∀ (s : State) (l : Line) (c : CSet) (q : BankReq), s.cset q.set = some c → c.ref = q.set → s.line q.issuer = some l → l.ref = q.issuer →
    s.bankQ = [q] → s.waitQ = [] → s.fab.sendQ = [] → q.held = false → (∀ m ∈ s.lines, m.status ≠ .ended) → (∀ x ∈ s.sets, x.phase ≠ .ended) →
    let i := Instr.bankServe c.core (q.off / 16 % 32)
    let g := q.off / 16
    let served : State := { s with bankQ := [] }
    (∀ tag dst sx acq, q.op = .load tag dst sx acq → c.badGran.contains g = false →
      let fits := (tag = .take → c.available g q.run = true) ∧ (tag = .keep → c.isFull g = true ∧ c.holder g = none)
      (fits → ∃ t acc, exec i s = .next t ∧ t.flight = s.flight ++ [acc] ∧ acc.kind = .load ∧ acc.phase = .performed 0 ∧
        acc.val = c.read q.off q.size ∧ acc.dst = dst ∧ acc.issuer = .line q.issuer q.thread ∧ t.bankQ = [] ∧ t.lines = s.lines ∧ t.dev = s.dev ∧
        (tag ≠ .take → t.sets = s.sets) ∧ (tag = .take → ∃ c', t.cset q.set = some c' ∧ c'.holder g = some q.run ∧ c'.full = c.full ∧ c'.spad = c.spad)) ∧
      (¬ fits → exec i s = .next { served with waitQ := [q] })) ∧
    (∀ fill rel, q.op = .store fill rel → c.isMark g = false →
      (∃ t c', exec i s = .next t ∧ t.cset q.set = some c' ∧ c'.spad = writeBytes c.spad q.off (bytesOf q.val q.size) ∧
        c'.full = (if fill && !c.full.contains g then g :: c.full else c.full) ∧ (∀ r, r ≠ q.set → t.cset r = s.cset r) ∧
        t.lines = (if fill then s.lines.map fun (m : Line) => if m.status = .wait (.full q.set g) then { m with status := .wait .filled } else m
          else s.lines) ∧
        t.flight = s.flight ∧ t.dev = s.dev ∧ t.bankQ = []) ∧
      (Memory.wf c.spad = true → ∃ t c', exec i s = .next t ∧ t.cset q.set = some c' ∧
        c'.read q.off q.size = q.val % 2 ^ (8 * q.size))) ∧
    (q.op = .clear → c.holder g = some q.run → exec i s = .next (served.updSet q.set fun c => c.setEmpty g)) ∧
    (∀ op ty dst cmp rel acq, q.op = .atomic op ty dst cmp rel acq → c.isMark g = false → c.badGran.contains g = false →
      ∃ t acc c', exec i s = .next t ∧ t.flight = s.flight ++ [acc] ∧ acc.kind = .atomic op ty ∧ acc.val = c.read q.off q.size ∧ acc.dst = dst ∧
        t.cset q.set = some c' ∧
        c'.spad = (match atomNew op ty (c.read q.off q.size) q.val cmp with
          | some v => writeBytes c.spad q.off (bytesOf v q.size)
          | none => c.spad))

/-- R160, R191, R274 to R276: BANK_SERVE on a barrier step of the line's last thread. BARINIT makes the granule a valid barrier; an
arrival lowers its count and, when count and byte count are both zero, flips the phase and starts the count again; a wait for a phase
that is over goes on with 0 and one for the current phase parks the line; BARINV invalidates. A BARINIT of a barrier in use, a count outside 1 to 65,535,
an arrival or a wait without a valid barrier and one that leaves the range of its fields trap their line at its thread and leave the barrier. -/
def BanksServeBarrierSteps : Prop :=
  ∀ (s : State) (l : Line) (c : CSet) (q : BankReq), s.sets = [c] → c.ref = q.set → s.line q.issuer = some l → l.ref = q.issuer →
    s.bankQ = [q] → s.waitQ = [] → s.fab.sendQ = [] → s.copyQ = [] → (∀ m ∈ s.lines, m.status ≠ .ended) → c.phase = .resident →
    l.issueMask = [q.thread] → l.takeRun = none → q.off % 16 = 0 → Memory.wf c.spad = true →
    (c.isMark (q.off / 16) = true → c.badGran.contains (q.off / 16) = false) →
    let i := Instr.bankServe c.core (q.off / 16 % 32)
    let g := q.off / 16
    let b := c.bar g
    let on (nb : BarObj) (m : Line) : Prop := ∃ t c', exec i s = .next t ∧ t.sets = [c'] ∧ c'.isMark g = true ∧ c'.bar g = nb ∧
      (∀ h, h ≠ g → c'.bar h = c.bar h) ∧ t.line q.issuer = some m ∧ t.dev = s.dev
    let traps (cls : Nat) : Prop := ∃ t m, exec i s = .next t ∧ t.line q.issuer = some m ∧ m.status = .trapped ∧ m.pc = q.pc ∧ m.tri = q.thread ∧
      m.record.cls = cls ∧ t.sets = s.sets
    let idle : Prop := b.wait = 0 ∧ b.txc = 0 ∧ b.aleft = b.ainit
    let sum : Int := b.txc + (BitVec.ofNat 32 q.val).toInt
    (q.op = .barInit →
      (b.valid = true → ¬ idle → traps 0x0D) ∧
      ((b.valid = true → idle) → q.val < 1 ∨ 65535 < q.val → traps 0x0E)) ∧
    (q.op = .barArrive →
      (b.valid = false → traps 0x0B) ∧
      (b.valid = true → b.aleft < 1 ∨ sum < -(2 ^ 31 : Int) ∨ (2 ^ 31 : Int) - 1 < sum → traps 0x0C)) ∧
    (∀ p, q.op = .barWait p → b.valid = false → b.inval = false → traps 0x0B) ∧
    (∀ p, q.op = .barWait p → b.inval = true → c.isMark g = true → on b (l.setP q.thread p true).next) ∧
    (q.op = .barInv → b.valid = false → traps 0x0B) ∧
    (q.op = .barInit → (b.valid = true → idle) → 1 ≤ q.val → q.val ≤ 65535 →
      on { txc := 0, ainit := q.val, aleft := q.val, phase := b.phase, valid := true, inval := false, err := 0, wait := 0, phcnt := b.phcnt } l.next) ∧
    (q.op = .barArrive → b.valid = true → 1 ≤ b.aleft → -(2 ^ 31 : Int) ≤ b.txc + (BitVec.ofNat 32 q.val).toInt →
      b.txc + (BitVec.ofNat 32 q.val).toInt ≤ 2 ^ 31 - 1 →
      let b' := { b with aleft := b.aleft - 1, txc := b.txc + (BitVec.ofNat 32 q.val).toInt }
      ((b'.aleft ≠ 0 ∨ b'.txc ≠ 0) → on b' l.next) ∧
      (b'.aleft = 0 → b'.txc = 0 → on { b' with phase := !b.phase, phcnt := (b.phcnt + 1) % 2 ^ 32, aleft := b.ainit } l.next)) ∧
    (∀ p, q.op = .barWait p → b.valid = true → b.inval = false →
      (b.phase ≠ decide (q.val = 1) → on b (l.setP q.thread p false).next) ∧
      (b.phase = decide (q.val = 1) → b.wait < 65535 → on { b with wait := b.wait + 1 } { l with status := .wait .barrier })) ∧
    (q.op = .barInv → b.valid = true → on { b with valid := false, inval := true } l.next)

/-- What BANK_SERVE does with the request at the head of a bank's queue. -/
def Obligations.BanksServe : Prop := BanksServeLoadsAndStores ∧ BanksServeBarrierSteps

/-! ## Stream ports and copies (10_isa_memory_sync.md) -/

/-- R278, R281 to R284: PATSET, SBIND, SEOS, SREL, SPOS, SSKIP on a port that holds no granule, and COPY, which enters its descriptor at
the tail of its queue. -/
def Obligations.StreamControlAndCopy : Prop :=
  ∀ (s : State) (l : Line) (c : CSet) (wr : Bool) (q : Fin 16) (slot : Fin 32) (d a : Fin 32) (n : Fin 4) (p : Fin 8), Issues s l →
    s.cset (setOf l.ref) = some c → s.unconfirmed l.ref = false →
    (a.val + 9 < l.kregs → readyRegs l [] ((List.range 10).map (a.val + ·)) →
      ∃ v : Vector Word 10, (∀ i : Fin 10, v[i] = l.kr (a.val + i)) ∧
        SupTo (.patset (.r a) slot) s (s.updSet (setOf l.ref) fun x => { x with slots := x.slots.set slot v }) l l) ∧
    (q.val < l.nports → (l.port q).held = none → descIllegal c.slots[slot] wr = false →
      LineTo (.sbind wr (.q q) slot) s l { l with
        ports := l.ports.set q { bound := true, write := wr, slot := slot, desc := c.slots[slot], pos := 0, held := none }
        ends := l.ends.set q 0 }) ∧
    (q.val < l.nports → (l.port q).bound = true →
      (p ≠ 0 → s.quantum = 0 → ThreadsTo (.seos (.r (p.castLE (by decide))) (.q q)) s l fun j t => t.putP p ((l.end_ q).getLsbD j)) ∧
      ((l.port q).held = none →
        LineTo (.srel (.q q)) s l { l with ports := l.ports.set q Port.unbound, ends := l.ends.set q 0 } ∧
        (l.okK false a = true → readyRegs l [] [a] →
          LineTo (.sskip (.q q) (.r a)) s l { l with
            ports := l.ports.set q { l.port q with pos := min ((l.port q).pos + (l.kr a).toNat) (2 ^ 64 - 1) } })) ∧
      (l.okK false d = true → readyRegs l [] [d] →
        LineTo (.spos (.r d) (.q q)) s l (l.setK d (BitVec.ofNat 32 (min (l.port q).pos 0xFFFFFFFF))))) ∧
    (l.okK false d = true → l.okK false a = true → readyRegs l [] [a, d] → s.acquiring l.ref = false →
      (s.copyQ.filter fun (o : CopyOp) => decide (o.core = l.core) && decide (o.queue = n.val)).length < 32 →
      let src := c.slots.getD (fld (l.kr a) 0 5) (Vector.replicate 10 0)
      let dst := c.slots.getD (fld (l.kr d) 0 5) (Vector.replicate 10 0)
      (s.copyIllegal c (l.kr a) (l.kr d) src dst = false →
        ∃ o : CopyOp, SupTo (.copy n (.r d) (.r a)) s { s with copyQ := s.copyQ ++ [o], nextId := s.nextId + 1 } l l ∧
          o.core = l.core ∧ o.queue = n ∧ o.issuer = l.ref ∧ o.src = src ∧ o.dst = dst ∧ o.mmask = fld (l.kr d) 8 8 ∧ o.ben = bit (l.kr a) 5 ∧
          o.bgr = fld (l.kr a) 16 16 ∧ o.n = 0 ∧ o.state = .queued) ∧
      (s.copyIllegal c (l.kr a) (l.kr d) src dst = true →
        exec (.copy n (.r d) (.r a)) s = .next (s.trapEntry l { cls := 0x11 } l.pc 0 l.pc (iword (.copy n (.r d) (.r a))) 0)))

/-- R186, R280: COPY_START starts the head of a queue once nothing of its line is outstanding; COPY_ELEMENT moves the next element, here
between two scratchpad places of one window that hold no barrier; COPY_COMPLETE takes the copy out of its queue once time has reached the
completion time of its writes. -/
def Obligations.CopiesMoveElementByElement : Prop :=
  ∀ (s : State) (c : CSet) (o : CopyOp) (n : Fin 4), s.copyQ = [o] → s.sets = [c] → c.ref = setOf o.issuer → o.queue = n.val → c.phase = .resident →
    (∀ l ∈ s.lines, l.status ≠ .ended) → o.held = none → o.grant = none →
    (o.state = .queued → s.flight = [] → s.bankQ = [] → s.waitQ = [] → s.fab.waits = [] →
      exec (.copyStart o.core n) s = .next { s with copyQ := [{ o with state := .started }] }) ∧
    (∀ a b : Nat, o.state = .started → o.mmask = 0 → descSpace o.src = 1 → descSpace o.dst = 1 → descTag o.src = 0 →
      descElem o.src o.n = .at_ a → descElem o.dst o.n = .at_ b → a < c.win → b < c.win → c.badGran.contains (a / 16) = false →
      c.isMark (b / 16) = false → descEsize o.src = descEsize o.dst → descEsize o.dst ≤ 3 → b % 2 ^ descEsize o.dst = 0 → s.bankQ = [] → s.waitQ = [] →
      let size := 2 ^ descEsize o.dst
      ∃ t c', exec (.copyElement o.core n) s = .next t ∧ t.sets = [c'] ∧
        c'.spad = writeBytes c.spad b (bytesOf (c.read a size) size) ∧ c'.isFull (b / 16) = true ∧ (∀ g, g ≠ b / 16 → c'.isFull g = c.isFull g) ∧
        t.copyQ = [{ o with n := o.n + 1, state := if o.n + 1 = descTotal o.src then .written o.lastG else .started }] ∧ t.dev = s.dev) ∧
    (∀ g, o.state = .written g →
      (s.time < g → exec (.copyComplete o.core n) s = .next s) ∧
      (g ≤ s.time → s.tabDone o.late = true → (∀ a ∈ s.flight, a.issuer ≠ .copy o.core o.queue o.issuer) → o.ben = false →
        ∃ t, exec (.copyComplete o.core n) s = .next t ∧ t.copyQ = [] ∧ t.sets = [c] ∧ t.lines = s.lines ∧ t.dev = s.dev) ∧
      (g ≤ s.time → s.tabDone o.late = true → (∀ a ∈ s.flight, a.issuer ≠ .copy o.core o.queue o.issuer) → o.ben = true → s.bankQ = [] →
        c.badGran.contains o.bgr = false → descSpace o.dst ≠ 2 → c.isMark o.bgr = true → (c.bar o.bgr).valid = true → 0 < (c.bar o.bgr).aleft →
        Memory.wf c.spad = true → -(2 ^ 31 : Int) ≤ (c.bar o.bgr).txc - (descTotal o.dst * 2 ^ descEsize o.dst : Nat) →
        (c.bar o.bgr).txc - (descTotal o.dst * 2 ^ descEsize o.dst : Nat) ≤ 2 ^ 31 - 1 →
        ∃ t c', exec (.copyComplete o.core n) s = .next t ∧ t.copyQ = [] ∧ t.sets = [c'] ∧
          c'.bar o.bgr = { c.bar o.bgr with txc := (c.bar o.bgr).txc - (descTotal o.dst * 2 ^ descEsize o.dst : Nat) }))

/-! ## Matrix instructions (11_isa_matrix.md) -/

/-- R292 to R296, R305 to R310: SETSTAIR, QDSET, MSWAP, MZERO, MSTAT, MDRAIN and MMAS on a line whose threads are all active write the
descriptor, form a quadrille, or enter the matrix queue and the drain queue. -/
def MatrixInstructionsEnterTheirQueues : Prop :=
  ∀ (s : State) (l : Line) (c : CSet) (t : Fin 4) (m : Fin 32) (clr : Bool) (d a b : Fin 32), Issues s l → l.fullMask = true →
    s.unconfirmed l.ref = false → s.cset (setOf l.ref) = some c →
    let put (s : State) (k : MatKind) : State :=
      { s with matQ := s.matQ ++ [{ id := s.nextId, core := l.core, issuer := l.ref, kind := k }], nextId := s.nextId + 1 }
    (a.val + 1 < l.kregs → readyRegs l [] [a, a + 1] →
      (stairIllegal (l.kr a) (l.kr (a + 1)) = false → LineTo (.setstair (.r a)) s l { l with d0 := l.kr a, d1 := l.kr (a + 1) }) ∧
      (stairIllegal (l.kr a) (l.kr (a + 1)) = true →
        exec (.setstair (.r a)) s = .next (s.trapEntry l { cls := 0x12 } l.pc 0 l.pc (iword (.setstair (.r a))) 0))) ∧
    (l.okK false a = true → readyRegs l [] [a] → c.qdst = 0 →
      let mem := fld (l.kr a) 0 16
      fld (l.kr a) 16 16 = 0 → 2 ≤ popCount mem → popCount mem ≤ 6 → s.holdsLines (setOf l.ref) mem = true →
      mem.testBit l.ref.line = true →
      SupTo (.qdset (.r a)) s { s with
          sets := s.sets.map fun (x : CSet) => if x.ref = setOf l.ref then { x with qdst := l.kr a } else x
          lines := s.lines.map fun (x : Line) => if setOf x.ref = setOf l.ref ∧ mem.testBit x.ref.line then { x with mmaCount := 0 } else x }
        l { l with mmaCount := 0 }) ∧
    ((s.matQ.filter fun (o : MatOp) => decide (o.core = l.core)).length < 16 →
      SupTo .mswap s (put s .mswap) l l ∧ SupTo (.mzero t) s (put s (.mzero t)) l l ∧
      (d.val + 1 < l.kregs → readyRegs l [] [d, d + 1] →
        SupTo (.mstat clr (.r d) m) s (put s (.mstat m clr d)) l { l with kpend := l.kpend ++ [d.val, d.val + 1] }) ∧
      (l.okK false a = true → l.okK false b = true → readyRegs l [] [a, b] → bit (l.kr b) 5 = false → bit (l.kr b) 6 = false →
        mdrainFault c t (l.kr a) 0 (l.kr b) = none → s.acquiring l.ref = false → s.drainLen l.core < 16 →
        ∃ o : DrainOp, o.kind = .mdrain t (l.kr a) 0 (l.kr b) l.lmode [] false ∧ o.id = s.nextId ∧ o.core = l.core ∧ o.issuer = l.ref ∧
          SupTo (.mdrain t (.r a) (.r b)) s { s with
            drainQ := s.drainQ ++ [o]
            matQ := s.matQ ++ [{ id := s.nextId + 1, core := l.core, issuer := l.ref, kind := .mread s.nextId }]
            nextId := s.nextId + 2 } l l)) ∧
    (a.val + 1 < l.kregs → l.okK false b = true → readyRegs l [] [a, a + 1, b] → mmasTypes l = true → stairDef l.d1 = true →
      let wa := (l.kr (a + 1)).toNat * 2 ^ 32 + (l.kr a).toNat
      let off := (l.kr b).toNat
      off < 2 ^ 20 → off % 16 = 0 → off + 16 ≤ c.win → s.acquiring l.ref = false → s.bankBusy c off = false →
      s.ownBank l.ref c.ref (off / 16) = false → c.badGran.contains (off / 16) = false → s.drainLen l.core < 16 →
      ∀ desc : Vector Word 4, (∀ i : Fin 4, desc[i] = BitVec.ofNat 32 (c.read (off + 4 * i) 4)) →
        (mmasFault c l.ty wa desc = none → ∃ o : DrainOp, o.kind = .mmas wa desc l.ty l.d0 l.d1 [] false ∧ o.core = l.core ∧ o.issuer = l.ref ∧
          SupTo (.mmas (.r a) (.r b)) s { s with drainQ := s.drainQ ++ [o], nextId := s.nextId + 1 } l l) ∧
        (∀ f, mmasFault c l.ty wa desc = some f →
          exec (.mmas (.r a) (.r b)) s = .next (s.trapEntry l f l.pc 0 l.pc (iword (.mmas (.r a) (.r b))) 0)))

/-- R40: a matrix instruction whose line has an inactive thread takes the matrix-mask fault. -/
def MatrixInstructionsNeedEveryThread : Prop :=
  ∀ (s : State) (l : Line) (t : Fin 4) (m : Fin 32) (clr : Bool) (d a b : Fin 32), Issues s l → l.fullMask = false →
    s.unconfirmed l.ref = false → mmaTypes l = true → mmasTypes l = true → a.val + 1 < l.kregs → l.okK false b = true → d.val + 1 < l.kregs →
    b.val ∉ l.kpend →
    (∀ q : Fin 16, l.okPortA (.q q) = true → exec (.mmaPort t (.q q) (.r b)) s =
      .next (s.trapEntry l { cls := 0x15 } l.pc 0 l.pc (iword (.mmaPort t (.q q) (.r b))) 0)) ∧
    ∀ i ∈ [Instr.setstair (.r a), .mloadb (.r a) (.r b), .mswap, .mma t (.r a) (.r b), .mmas (.r a) (.r b), .mdrain t (.r a) (.r b), .mzero t,
        .mstat clr (.r d) m, .qdset (.r a)],
      exec i s = .next (s.trapEntry l { cls := 0x15 } l.pc 0 l.pc (iword i) 0)

/-- How matrix instructions issue.
That a bad port of an MMA is found before an inactive thread is the model's reading, and which of several faults of an MMAS is taken its choice
(assumption 87); the class of the fault of a port bound to the gallery is its choice too (assumption 88). -/
def Obligations.MatrixEntry : Prop := MatrixInstructionsEnterTheirQueues ∧ MatrixInstructionsNeedEveryThread

/-- R292, R298, R301, R306 to R308: MATRIX_QUEUE_EFFECT on the one operation that its queue holds: MSWAP exchanges the planes, MZERO
clears its tile, MSTAT delivers its monitor and clears it when told, and MDRAIN's read takes the values of its rows and, with Z, clears
them. -/
def Obligations.MatrixQueueActs : Prop :=
  ∀ (s : State) (c : CSet) (o : MatOp), s.matQ = [o] → s.runs = [] → s.loads = [] → s.sets = [c] → c.ref = setOf o.issuer → c.phase = .resident →
    (∀ l ∈ s.lines, l.status ≠ .ended) →
    let i := Instr.matrixQueueEffect o.core
    let on (c' : CSet) : Prop := exec i s = .next { s with matQ := [], sets := [c'] }
    (o.kind = .mswap → on { c with active := c.shadow, shadow := c.active }) ∧
    (∀ t : Fin 4, o.kind = .mzero t → on { c with tiles := c.tiles.set t [] }) ∧
    (∀ (m d : Nat) clr l, o.kind = .mstat m clr d → m < 32 → 0 < d → d + 1 < 16 → s.drainQ = [] → s.lines = [l] → l.ref = o.issuer → s.flight = [] →
      l.kpend = [d, d + 1] →
      let w := (c.mons.getD m Monitor.zero).count + if (c.mons.getD m Monitor.zero).sat then 2 ^ 63 else 0
      ∃ t u c', exec i s = .next t ∧ t.lines = [u] ∧ u.kr d = BitVec.ofNat 32 w ∧ u.kr (d + 1) = BitVec.ofNat 32 (w / 2 ^ 32) ∧ u.kpend = [] ∧
        u.threads = l.threads ∧ t.sets = [c'] ∧ c'.tiles = c.tiles ∧
        c'.mons = (if clr then c.mons.setIfInBounds m Monitor.zero else c.mons)) ∧
    (∀ (e : DrainOp) (t : Fin 4) dw sw ep lm, o.kind = .mread e.id → s.drainQ = [e] → e.kind = .mdrain t dw sw ep lm [] false → fld ep 16 2 ≠ 1 →
      let rows := fld ep 8 7 + 1
      let vs := (List.range rows).flatMap fun r => (List.range 128).map fun n => (tget 0 c.tiles[t] (128 * r + n)).setWidth 64
      let c' := if bit ep 7 then { c with tiles := c.tiles.set t (c.tiles[t].filter fun x => decide (128 * rows ≤ x.1)) } else c
      exec i s = .next { s with matQ := [], sets := [c'], drainQ := [{ e with kind := .mdrain t dw sw ep lm vs true }] })

/-- R298 to R303: MLOADB reads the B rows into the shadow plane and its line goes on at MLOADB_COMPLETE; an MMA of a line that is in no
quadrille waits for its staging, and MMA_ISSUE reads its A rows and puts it in flight when the active plane has the record that it
demands; a plane with another record is the plane fault.
When MLOADB reads its operands is the model's reading (assumption 19); that the plane fault comes before A is staged, whatever ATAG says, is its choice
(assumption 87), and so is the class of the fault of a port bound to the gallery (assumption 88). -/
def Obligations.PlanesAndIssue : Prop :=
  ∀ (s : State) (l : Line) (c : CSet) (t : Fin 4) (a b : Fin 32), Issues s l → l.fullMask = true → l.okK false a = true → l.okK false b = true →
    readyRegs l [] [a, b] → s.acquiring l.ref = false → s.unconfirmed l.ref = false → s.cset (setOf l.ref) = some c → c.phase = .resident → l.takeRun = none →
    s.matQ = [] → s.loads = [] → s.bankQ = [] → s.waitQ = [] → s.fab.sendQ = [] → c.badGran = [] → mmaTypes l = true → stairDef l.d1 = true →
    (let off := fld (l.kr a) 0 20
     let mb := metaBytes l.ty l.sp24 (decide (l.ty = .e2m1)) 32
     l.sp24 = false → fld (l.kr a) 20 12 = 0 → off % 16 = 0 → off + bBytes l.ty ≤ c.win → (mb ≠ 0 → fld (l.kr b) 20 12 = 0 ∧
       fld (l.kr b) 0 20 % 16 = 0 ∧ fld (l.kr b) 0 20 + mb ≤ c.win) →
      ∃ t u c', exec (.mloadb (.r a) (.r b)) s = .next t ∧ exec (.mloadbComplete (setOf l.ref)) t = .next u ∧
        u.cset (setOf l.ref) = some c' ∧ c'.active = c.active ∧ c'.tiles = c.tiles ∧ c'.spad = c.spad ∧ c'.full = c.full ∧
        c'.shadow = { kind := some { ty := l.ty, sp24 := false, mx := decide (l.ty = .e2m1), grp := 32 },
                      rows := readBytes c.spad off (bBytes l.ty), info := readBytes c.spad (fld (l.kr b) 0 20) mb } ∧
        (∀ r, r ≠ setOf l.ref → u.cset r = s.cset r) ∧ LeavesAllButSets s u l ∧ u.line l.ref = some { l.next with takeRun := none }) ∧
    (let i := Instr.mma t (.r a) (.r b)
     stairUnfit l.d1 l.ty = false → bit c.qdst l.ref.line = false → mmaFault s l c t (.r a) (.r b) false = none →
      ∃ t', exec i s = .next t' ∧ t' = s.setLine { l with status := .wait (.mma i), tri := 0 } ∧
        (c.active.kind = some { ty := l.ty, sp24 := l.sp24, mx := decide (l.ty = .e2m1), grp := 32 } → fld (l.kr a) 20 2 = 0 →
          ∃ u r, exec (.mmaIssue l.ref) t' = .next u ∧ u.runs = s.runs ++ [r] ∧ r.tile = t.val ∧ r.rows = fld (l.kr b) 0 7 + 1 ∧
            r.depth = fld (l.kr b) 8 8 + 1 ∧ r.ty = l.ty ∧ r.plane = c.active ∧ r.members = [l.ref.line] ∧ LeavesTheRest s u l ∧
            r.a = (List.range r.rows).map (fun n =>
              readBytes c.spad (fld (l.kr a) 0 20 + n * (fld (l.kr b) 16 12 * 16)) (rowBytes l.ty r.depth)) ∧
            u.line l.ref = some { l.next with takeRun := none }) ∧
        (c.active.kind ≠ some { ty := l.ty, sp24 := l.sp24, mx := decide (l.ty = .e2m1), grp := 32 } →
          ∃ u m, exec (.mmaIssue l.ref) t' = .next u ∧ u.runs = s.runs ∧ u.line l.ref = some m ∧ m.status = .trapped ∧ m.pc = l.pc ∧
            m.record.cls = 0x1A)) ∧
    (∀ q : Fin 16, l.okPortA (.q q) = false → exec (.mmaPort t (.q q) (.r b)) s =
      .next (s.trapEntry l { cls := 0x03 } l.pc 0 l.pc (iword (.mmaPort t (.q q) (.r b))) 0)) ∧
    (∀ q : Fin 16, l.okPortA (.q q) = true → stairUnfit l.d1 l.ty = false → bit c.qdst l.ref.line = false →
      mmaFault s l c t (.q q) (.r b) true = none →
      let i := Instr.mmaPort t (.q q) (.r b)
      ∃ t', exec i s = .next t' ∧ t' = s.setLine { l with status := .wait (.mma i), tri := 0 } ∧
        ∀ x : Nat, c.active.kind = some { ty := l.ty, sp24 := l.sp24, mx := false, grp := 32 } → l.ty = .s8 → fld (l.kr b) 0 7 = 0 →
          fld (l.kr b) 8 8 = 7 → descElem (l.port q).desc (l.port q).pos = .at_ x → descSpace (l.port q).desc = 1 →
          descTag (l.port q).desc = 0 → x < c.win →
          ∃ u r, exec (.mmaIssue l.ref) t' = .next u ∧ u.runs = s.runs ++ [r] ∧ r.a = [readBytes c.spad x 8] ∧ r.depth = 8 ∧ r.rows = 1 ∧
            LeavesTheRest s u l ∧ u.line l.ref = some { l.next with
              takeRun := none, ports := l.ports.set q { l.port q with pos := min ((l.port q).pos + 1) (2 ^ 64 - 1) } })

/-- R128, R142, R304: MMA_COMPLETE on a dense .s8 MMA without saturation adds to each element of its rows the sum of the products of the
A row and the B column, modulo 2^32, in one step; no other element changes. -/
def Obligations.IntegerProductsReachTheTile : Prop :=
  ∀ (s : State) (c : CSet) (m : MmaRun), s.runs = [m] → s.matQ = [] → s.sets = [c] → c.ref = m.set → c.phase = .resident →
    (∀ l ∈ s.lines, l.status ≠ .ended) → m.ty = .s8 → m.isat = false → m.tile < 4 → m.rows ≤ 128 →
    (∀ k, m.plane.kind = some k → k.sp24 = false) → (∀ t : Fin 4, tabWf 0 0 c.tiles[t] = true) →
    let av (i k : Nat) : Int := ((m.a.getD i []).getD k 0).toInt
    let bv (k n : Nat) : Int := (m.plane.rows.getD (128 * k + n) 0).toInt
    ∃ t c', exec (.mmaComplete m.set) s = .next t ∧ t.runs = [] ∧ t.sets = [c'] ∧ c'.spad = c.spad ∧ c'.active = c.active ∧
      (∀ i n, i < m.rows → n < 128 → (c'.tile m.tile).at_ i n =
        (c.tile m.tile).at_ i n + BitVec.ofInt 32 ((List.range m.depth).map fun k => av i k * bv k n).sum) ∧
      (∀ i n, m.rows ≤ i → n < 128 → (c'.tile m.tile).at_ i n = (c.tile m.tile).at_ i n) ∧
      (∀ r, r ≠ m.tile → c'.tile r = c.tile r)

/-- The lines of a set's drain operation that has ended: kstat of the line `r` takes the flags in. -/
abbrev takesFlags (s t : State) (r : LineRef) (fl : Flags) : Prop :=
  ∀ l, s.line r = some l → ∃ m, t.line r = some m ∧ m.kstat = l.kstat ||| fl.setWidth 32 ∧ m.threads = l.threads ∧ m.k = l.k ∧ m.pc = l.pc

/-- R305, R306: DRAIN_OPERATION on an MDRAIN whose values have been read, of any output type, tile format and scales: it writes each element,
in ascending order, to its place in the window, the granules of the elements become full, the line's kstat takes the flags in, and the
operation leaves its queue. An element is `drainElem` of its value and its scales, the row's before the column's; a 32-bit integer without
scales that is drained as .s8 is its saturated or wrapped low byte.
The scales are those that the window holds before the first element is written. The order of NaNs is the model's reading (assumption 66). -/
def MdrainWritesItsRows : Prop :=
  ∀ (s : State) (c : CSet) (o : DrainOp) (t : Nat) (dw sw ep lm : Word) (vs : List DWord) (ot : Ty), s.drainQ = [o] → s.sets = [c] →
    c.ref = setOf o.issuer → c.phase = .resident → o.state.isStopped = false → s.priorDone o.issuer o.id = true → s.bankQ = [] → s.waitQ = [] →
    (∀ l ∈ s.lines, l.status ≠ .ended) → o.kind = .mdrain t dw sw ep lm vs true → outType (fld ep 0 5) = some ot → o.n = 0 → c.badGran = [] →
    let zf := fld ep 16 2
    let size := if zf = 1 then 8 else 4
    let scale (at_ : Nat) : FV := (if zf = 1 then Fmt.f64 else Fmt.f32).value (c.read at_ size)
    let scales (e : Nat) : List FV := (if bit ep 5 then [scale (fld sw 0 16 * 16 + size * (e / 128))] else []) ++
      (if bit ep 6 then [scale (fld sw 16 16 * 16 + size * (e % 128))] else [])
    let out (e : Nat) : Nat × Flags := drainElem ot zf lm (nth 0 vs e) (scales e)
    let place (e : Nat) : Nat := fld dw 0 20 + e / 128 * (fld ep 18 12 * 16) + e % 128 * (ot.bits / 8)
    (∀ e < vs.length, c.isMark (place e / 16) = false) →
    ∃ t' c', exec (.drainOperation o.core) s = .next t' ∧ t'.drainQ = [] ∧ t'.sets = [c'] ∧ t'.dev = s.dev ∧ t'.hostMem = s.hostMem ∧
      c'.spad = (List.range vs.length).foldl (fun m e => writeBytes m (place e) (bytesOf (out e).1 (ot.bits / 8))) c.spad ∧
      (∀ e < vs.length, c'.isFull (place e / 16) = true) ∧ c'.tiles = c.tiles ∧ c'.marks = c.marks ∧
      takesFlags s t' o.issuer ((List.range vs.length).foldl (fun fl e => fl ||| (out e).2) 0) ∧
      (zf = 2 → ot = .s8 → bit ep 5 = false → bit ep 6 = false → ∀ v, vs = [v] →
        c'.spad = writeByte c.spad (fld dw 0 20) (BitVec.ofInt 8 (intResult (bit lm 13) (v.setWidth 32).toInt 8 true)))

/-- R154, R309, R310, R143, R403: MMAS_OPERATION reads x first, once its granules are full where its mode asks for that (until then it waits in their
lists), and with .take empties them;
then it reads the rows of W from device memory, writes to each element of y the stair's sum of its row's products, and ends with its
line's kstat taking the flags in. A row whose page has to be walked waits, and those below it are done.
When MMAS reads its operands, and that it waits for all its granules together in their lists, are the model's readings (assumptions 19, 67, 84). -/
def MmasReadsAndWrites : Prop :=
  ∀ (s : State) (c : CSet) (o : DrainOp) (wa : Nat) (desc : Vector Word 4) (ty : Ty) (d0 d1 : Word), s.drainQ = [o] → s.sets = [c] →
    c.ref = setOf o.issuer → c.phase = .resident → o.state.isStopped = false → s.priorDone o.issuer o.id = true → s.bankQ = [] → s.waitQ = [] →
    (∀ l ∈ s.lines, l.status ≠ .ended) → c.badGran = [] →
    let es := matBits ty / 8
    let k := fld desc[1] 0 16 + 1
    let n := fld desc[1] 16 16 + 1
    let pitch := fld desc[2] 0 24 * 256
    let gs := rangeGrans [(fld desc[0] 0 20, k * es)]
    (o.kind = .mmas wa desc ty d0 d1 [] false →
      (fld desc[0] 20 2 ≠ 0 → c.tileFull gs = false →
        exec (.mmasOperation o.core) s = .next (s.listTile { o.issuer with line := 20 } c.ref gs)) ∧
      (fld desc[0] 20 2 = 0 ∨ c.tileFull gs = true → exec (.mmasOperation o.core) s = .next { s with
        sets := [if fld desc[0] 20 2 = 1 then gs.foldl CSet.setEmpty c else c]
        drainQ := [{ o with state := .started, kind := .mmas wa desc ty d0 d1 (readBytes c.spad (fld desc[0] 0 20) (k * es)) true }] })) ∧
    (∀ x va row base, o.kind = .mmas wa desc ty d0 d1 x true → o.n = 0 → o.base = none → s.badDev = [] → c.marks = [] →
      s.wRange o.core o.part wa (s.engineUser o.issuer) (mmasPages wa pitch (k * es) n) none = .miss va row base →
      ∃ t' e, exec (.mmasOperation o.core) s = .next t' ∧ t'.drainQ = [e] ∧ e.n = row ∧ e.base = base ∧ e.kind = o.kind ∧ t'.dev = s.dev ∧
        ∃ w ∈ t'.walks, w.die = coreDie o.core ∧ w.part = o.part ∧ w.va / 0x10000 = va / 0x10000) ∧
    (∀ x pa, o.kind = .mmas wa desc ty d0 d1 x true → o.n = 0 → o.base = none → o.flags = 0 → s.badDev = [] →
      s.wRange o.core o.part wa (s.engineUser o.issuer) (mmasPages wa pitch (k * es) n) none = .ok pa →
      let row (r : Nat) : List Nat := (List.range k).map fun e => leNat ((List.range es).map fun i => readByte s.dev (canon (pa + r * pitch + e * es + i)))
      let out (r : Nat) : ElemSum := mmasOut ty d0 d1 (row r) ((List.range k).map fun e => packed (matBits ty) x.toArray e)
      let place (r : Nat) : Nat := fld desc[3] 0 20 + 4 * r
      (∀ r < n, c.isMark (place r / 16) = false) →
      ∃ t' c', exec (.mmasOperation o.core) s = .next t' ∧ t'.drainQ = [] ∧ t'.sets = [c'] ∧ t'.dev = s.dev ∧ t'.hostMem = s.hostMem ∧
        c'.spad = (List.range n).foldl (fun m r => writeBytes m (place r) (bytesOf (out r).z 4)) c.spad ∧
        (∀ r < n, c'.isFull (place r / 16) = true) ∧ c'.tiles = c.tiles ∧ c'.marks = c.marks ∧
        takesFlags s t' o.issuer ((List.range n).foldl (fun fl r => fl ||| (out r).fl) 0))

/-- The operations of the drain queue. -/
def Obligations.DrainQueueActs : Prop := MdrainWritesItsRows ∧ MmasReadsAndWrites

/-- R110, R249, R251: HAD32 and QCVT.e2m1 of a 32-thread line read the operands of every thread (+0.0 outside the issue mask) and wait;
BLOCK_WRITE writes each thread's result, with its flags, and the line goes on. -/
def Obligations.BlockInstructionsWriteTheirResults : Prop :=
  ∀ (s : State) (l : Line) (sc : HadScale) (d a : Fin 32), Issues s l → l.ty = .f32 → l.width = 32 → l.bv = false → l.tri = 0 →
    l.okX false d = true → l.okX false a = true → readyRegs l [a, d] [] → l.takeRun = none → l.threads.length = 32 →
    let xs := (List.range 32).map fun j => if l.isActive j && l.guard j then (l.x j a).toNat else 0
    let gives (i : Instr) (r : Nat → Nat × Flags) : Prop := quietFlags l (fun j => (r j).2) → ∃ t, exec i s = .next t ∧
      t = s.setLine { l with block := ((t.line l.ref).getD l).block, blockFl := ((t.line l.ref).getD l).blockFl, bv := true, status := .wait (.block i) } ∧
      ∃ u m, exec (.blockWrite l.ref) t = .next u ∧ LeavesTheRest s u l ∧ u.line l.ref = some m ∧ m.pc = l.pc + 4 ∧ m.status = .ready ∧
        m.bv = false ∧ m.k = l.k ∧ m.ports = l.ports ∧ m.lmode = l.lmode ∧ m.kstat = l.kstat ∧ m.active = l.active ∧
        m.threads = (l.afterThreads fun j t => t.result false d { v := BitVec.ofNat 64 (r j).1, fl := (r j).2 }).threads
    gives (.had32 sc (.r d) (.r a)) (fun j => ((had32 l.ftz sc xs).getD j (0, 0))) ∧
    gives (.qcvtE2m1 (.r d) (.r a)) (fun j =>
      let q := mxQuantise ((List.range 32).map l.rmOf) (xs.map fun x => Fmt.f32.value (ftzIn .f32 l.ftz x))
      let p := q.2.1.getD j (0, 0)
      (q.1 * 256 + p.1, p.2 ||| q.2.2))

/-! ## The memory system's steps (06_memory_hierarchy.md, 07_consistency_model.md, 18_translation.md) -/

/-- R164, R165, R172, R178: SLICE_PERFORM on the one access in flight. A store writes its bytes, and its completion time is the latest
of now and the line's leases; a load returns the bytes and leases the line to the core's L1; an atomic reads and writes in one step, and one that acquires leaves the newest line in the core's L1 (R176). A
release performs so at RELEASE_PERFORM, once the conditions of its scope hold. -/
def Obligations.SlicesPerformAccesses : Prop :=
  ∀ (s : State) (l : Line) (a : Access) (j ca : Nat), s.line l.ref = some l → s.flight = [a] → a.issuer = .line l.ref j → a.phase = .sent →
    a.staged = false → a.place = .dev ca → a.port = none → a.late = [] → s.badDev = [] → s.fab.sendQ = [] →
    (∀ w ∈ s.fab.waits, w.isOpenWrite l.ref = true → a.id ≤ w.id) →
    let g := max s.time (max (s.l2Rec (lineOf ca)).lease (s.l2Rec (lineOf ca)).tlease)
    let stores (i : Instr) : Prop := ∃ t, exec i s = .next t ∧ t.dev = writeBytes s.dev ca (bytesOf a.val a.size) ∧
      t.flight = [{ a with phase := .performed g, late := s.tabRefs ca }] ∧ g ≤ (t.l2Rec (lineOf ca)).done ∧ t.lines = (s.patchFetched (some l.ref) ca (bytesOf a.val a.size)).lines ∧ t.sets = s.sets ∧ t.hostMem = s.hostMem ∧
      ∀ x ∈ t.grids, x.id = a.grid → g ≤ x.lastG
    (a.kind = .store → a.rel = none → stores (.slicePerform a.id)) ∧
    (∀ sc, a.kind = .store → a.rel = some sc →
      (s.fenceOk l sc a.id = true → stores (.releasePerform a.id)) ∧ (s.fenceOk l sc a.id = false → exec (.releasePerform a.id) s = .next s) ∧
      exec (.slicePerform a.id) s = .next s) ∧
    (a.kind = .load → a.rel = none → a.acq = false → 0 < (s.part a.part).lease →
      ∃ t e, exec (.slicePerform a.id) s = .next t ∧ t.flight = [{ a with phase := .performed 0, val := readLe s.dev ca a.size }] ∧
        t.l1Hit a.core (lineOf ca) = some e ∧ e.bytes = readBytes s.dev (lineOf ca * 128) 128 ∧ e.expiry = s.time + (s.part a.part).lease ∧
        e.expiry ≤ (t.l2Rec (lineOf ca)).lease ∧ t.dev = s.dev ∧ t.sets = s.sets) ∧
    (∀ op ty, a.kind = .atomic op ty → a.rel = none → a.acq = false →
      ∃ t, exec (.slicePerform a.id) s = .next t ∧
        (∀ v, atomNew op ty (readLe s.dev ca a.size) a.val a.cmp = some v → t.dev = writeBytes s.dev ca (bytesOf v a.size) ∧
          t.lines = (s.patchFetched (some l.ref) ca (bytesOf v a.size)).lines ∧
          t.flight = [{ a with phase := .performed (max g 0), val := readLe s.dev ca a.size, late := s.tabRefs ca }]) ∧
        (atomNew op ty (readLe s.dev ca a.size) a.val a.cmp = none → t.dev = s.dev ∧ t.lines = s.lines ∧
          t.flight = [{ a with phase := .performed (max s.time 0), val := readLe s.dev ca a.size }])) ∧
    (∀ op ty, a.kind = .atomic op ty → a.rel = none → a.acq = true → 0 < (s.part a.part).lease →
      ∃ t e, exec (.slicePerform a.id) s = .next t ∧ t.l1Hit a.core (lineOf ca) = some e ∧ e.bytes = readBytes t.dev (lineOf ca * 128) 128)

/-- R171, R172, R196, R197, R258, R261: ACKNOWLEDGEMENT_RETURN raises hd by the completion time; LOAD_RETURN writes the register, extended,
and ends its wait; WRITE_CONFIRMED sends a provisional write whose translation passes, and a write whose checks fail is discarded and
traps its line at its thread. -/
def Obligations.AccessesReturn : Prop :=
  ∀ (s : State) (l : Line) (a : Access) (j : Nat), s.line l.ref = some l → s.flight = [a] → a.issuer = .line l.ref j → l.status ≠ .ended →
    (∀ m ∈ s.lines, m.status ≠ .ended) → (∀ x ∈ s.sets, x.phase ≠ .ended) →
    (∀ g ca, a.phase = .performed g → a.dst = none → a.kind = .store → a.failed = none → a.place = .dev ca → s.tabDone a.late = true →
      ∃ t m, exec (.acknowledgementReturn a.id) s = .next t ∧ t.flight = [] ∧ t.line l.ref = some m ∧ m.hd = max l.hd g ∧ m.threads = l.threads ∧
        m.pc = l.pc ∧ m.pend = l.pend ∧ t.dev = s.dev) ∧
    (∀ (n : Fin 32) g, a.phase = .performed g → a.dst = some n.val → n ≠ 0 → a.kind = .load → a.acq = false → a.failed = none → a.size ∈ [1, 2, 4] →
      (j, n.val) ∈ l.pend → j < l.threads.length →
      ∃ t m, exec (.loadReturn a.id) s = .next t ∧ t.flight = [] ∧ t.line l.ref = some m ∧
        m.x j n = (if a.sx ∧ a.size < 4 then (BitVec.ofNat (8 * a.size) a.val).signExtend 32 else BitVec.ofNat 32 a.val) ∧
        (j, n.val) ∉ m.pend ∧ (∀ k r, ¬ (k = j ∧ r = n.val) → m.x k r = l.x k r) ∧ m.pc = l.pc ∧ m.hd = l.hd ∧ t.dev = s.dev) ∧
    (∀ k, a.phase = .unconfirmed k → s.walks = [] →
      (∀ ca tr, s.translate (some l.core) (coreDie l.core) l.part false a.va true (!l.pl) = .hit (.dev ca) tr →
        (s.part l.part).regionRefuses ca 1 l.gtag (some (match s.grid a.grid with | some g => fld (g.pkt.getD 0 0) 8 2 | none => 0)) = false →
        exec (.writeConfirmed a.id) s = .next { s with flight := [{ a with phase := .sent, place := .dev ca, trans := tr, check := [] }] }) ∧
      (∀ cls old, s.translate (some l.core) (coreDie l.core) l.part false a.va true (!l.pl) = .fault cls → a.check = [old] → old.ref = l.ref →
        s.bankQ = [] → s.waitQ = [] →
        ∃ t m, exec (.writeConfirmed a.id) s = .next t ∧ t.flight = [] ∧ t.line l.ref = some m ∧ m.status = .trapped ∧ m.pc = old.pc ∧ m.tri = j ∧
          m.threads = old.threads ∧ m.record.cls = cls ∧ m.record.addr = a.va))

/-- R164, R165, R404: a lease that has run out leaves its L1 or its TLB; an L1 line may leave at any time; a line that leaves the L2
raises its slice's horizon to the line's leases, so that a later write completes no earlier. R36: STARVATION marks a line that has
waited 1,024 cycles. -/
def LeasesEnd : Prop :=
  ∀ (s : State) (core line n : Nat) (e : L1Line) (f : L2Line) (t : TlbEnt) (l : Line),
    (s.l1 = [e] → e.core = core → e.line = line →
      exec (.l1Evict core line) s = .next { s with l1 := [] } ∧
      (e.expiry ≤ s.time → exec (.leaseExpiry core line) s = .next { s with l1 := [] }) ∧
      (s.time < e.expiry → exec (.leaseExpiry core line) s = .next s)) ∧
    (s.l2 = [f] → f.line * 128 < 0x6000000000 →
      ∃ u, exec (.l2Evict f.line) s = .next u ∧ u.l2 = [] ∧ u.dev = s.dev ∧
        ∀ ca, ca < 0x6000000000 → lineOf ca = f.line → max f.lease f.tlease ≤ u.gwct ca) ∧
    (s.tlb[n]? = some t →
      (t.expiry ≤ s.time → exec (.tlbLeaseExpiry n) s = .next { s with tlb := s.tlb.eraseIdx n }) ∧
      (s.time < t.expiry → exec (.tlbLeaseExpiry n) s = .next s)) ∧
    (s.lines = [l] →
      (1024 ≤ l.waited → exec (.starvation l.ref) s = .next { s with lines := [{ l with starved := true }] }) ∧
      (l.waited < 1024 → exec (.starvation l.ref) s = .next s))

/-- R399, R400, R403 to R405, R408: WALK with no TLB entry held reads one entry at each level from the root; a leaf at level 2 fills the
core's TLB under a lease, which every line read records; an entry that is not valid, and a root that is not, is gathered as a
translation fault of the page. R145, R147, R314: INSTRUCTION_FETCH fills the instruction cache, waits for a walk, takes the fetch fault, or,
where the two low bits of pc are not zero, the address-form fault. -/
def WalksAndFetches : Prop :=
  ∀ (s : State),
    (∀ (w : Walk) core, s.walks = [w] → w.core = some core → s.tlb = [] → s.faultTab = [] → s.badDev = [] → (s.part w.part).lease < 2 ^ 20 →
      let fault (lines : List Nat) : FaultEnt :=
        { die := w.die, part := w.part, peer := w.peer, page := w.va / 0x10000, cls := 0x07, absent := decide (lines ≠ []), lines, on := [] }
      (s.walkRoot w = none → exec (.walk w.id) s = .next { s with walks := [], faultTab := [fault []] }) ∧
      (∀ root, s.walkRoot w = some root →
        let slot (table level : Nat) : Nat := canon (table + 8 * bitsAt w.va (12 + 9 * level) 9)
        let entry (table level : Nat) : Nat := readLe s.dev (slot table level) 8
        let next (e : Nat) : Nat := bitsAt e 8 49 * 256
        let goes (e level : Nat) : Prop := e.testBit 0 = true ∧ e.testBit 1 = false ∧ s.malformed w.part level e = false
        let e4 := entry root 4
        let e3 := entry (next e4) 3
        let e2 := entry (next e3) 2
        (e4.testBit 0 = false → ∃ t, exec (.walk w.id) s = .next t ∧ t.walks = [] ∧ t.tlb = [] ∧ t.faultTab = [fault [lineOf (slot root 4)]] ∧ t.dev = s.dev) ∧
        (goes e4 4 → goes e3 3 → e2.testBit 0 = true → e2.testBit 1 = true → s.malformed w.part 2 e2 = false →
          let until_ := s.time + (s.part w.part).lease
          let read (table level n : Nat) : TabRef := (lineOf (slot table level), s.nextId + n)
          let leaf : TlbEnt :=
            { core := some core, die := w.die, part := w.part, peer := w.peer, level := 2, vpn := w.va / 2 ^ 30, entry := e2, expiry := until_
              lines := [read (next e3) 2 2, read (next e4) 3 1, read root 4 0] }
          s.walkCheck w { leaf with core := none } = none →
          ∃ t, exec (.walk w.id) s = .next t ∧ t.walks = [] ∧ t.tlb.head? = some leaf ∧ t.dev = s.dev ∧ t.lines = s.lines ∧
            ∀ x ∈ leaf.lines, until_ ≤ (t.l2Rec x.1).tlease))) ∧
    (∀ l : Line, s.line l.ref = some l → l.status = .ready → l.pc ≠ l.crv ∨ l.depth = 0 →
      let va := s.codeVa l
      let x := s.translate (some l.core) (coreDie l.core) l.part false va false (!l.pl) true
      (va % 4 ≠ 0 → s.unconfirmed l.ref = false → ∃ t m, exec (.instructionFetch l.ref) s = .next t ∧ t.line l.ref = some m ∧
        m.status = .trapped ∧ m.pc = l.pc ∧ m.record.cls = 0x04 ∧ m.record.addr = va) ∧
      (∀ ca tr, va % 4 = 0 → x = .hit (.dev ca) tr → s.badDev = [] →
        ∃ t, exec (.instructionFetch l.ref) s = .next t ∧ t.line l.ref = some l ∧ t.dev = s.dev ∧
          t.cachedWord l.core l.part va = some (BitVec.ofNat 32 (leNat (((s.devLine (lineOf ca)).drop (va % 128)).take 4)))) ∧
      (va % 4 = 0 → x = .miss → ∃ t, exec (.instructionFetch l.ref) s = .next t ∧ t.line l.ref = some { l with status := .wait .fetch } ∧
        ∃ w ∈ t.walks, w.die = coreDie l.core ∧ w.part = l.part ∧ w.va / 0x10000 = va / 0x10000) ∧
      (∀ cls, va % 4 = 0 → x = .fault cls → s.unconfirmed l.ref = false → ∃ t m, exec (.instructionFetch l.ref) s = .next t ∧ t.line l.ref = some m ∧
        m.status = .trapped ∧ m.pc = l.pc ∧ m.record.cls = 0x1F ∧ m.record.addr = va))

/-- Leases, evictions, walks and instruction fetches.
That the L2's horizon takes a leaving line's leases is the model's reading (assumption 24), the TLB's capacity its choice (assumption 23). -/
def Obligations.TranslationAndLeases : Prop := LeasesEnd ∧ WalksAndFetches

/-! ## The fabric (13_fabric.md) -/

/-- R332, R432: SLOT_START takes every figure-mode port of the partition that has not begun the slot in force to the slot's FACE: the port stays
locked only where the FACE is the one before, and its link layer goes on with what it kept for that FACE; every other port stands as before.
What the link layer keeps for each FACE is the model's choice (assumption 78). -/
def SlotsBegin : Prop :=
  ∀ (s : State) (part : Nat) (f : Figure) (start : Nat) (sl : Slot), (s.part part).figure = some f → slotAt f s.time = some (start, sl) →
    ∃ t, exec (.slotStart part) s = .next t ∧ t.fab.sendQ = s.fab.sendQ ∧ t.dev = s.dev ∧ t.lines = s.lines ∧
      ∀ m : Fin 16,
        let q := s.port m
        let face := slotFace sl m
        if (s.part part).pport.testBit m = true ∧ q.packet = false ∧ q.slotAt < start then
          (t.port m).slotAt = start ∧ (t.port m).face = face ∧ (t.port m).nulls = 0 ∧ (t.port m).locked = (q.locked && decide (q.face = face)) ∧
          (q.face = face → (t.port m).link = q.link ∧ (t.port m).links = q.links) ∧
          (q.face ≠ face → (q.face, q.link) ∈ (t.port m).links ∧
            ∀ x, q.links.find? (fun y => decide (y.1 = face)) = some x → (t.port m).link = x.2)
        else t.port m = q

/-- R330 to R332, R336, R340, R432: what a figure-mode port does in a slot that faces package `pkg`, port `pt`. In the guard an unlocked port
sends NUL flits and a locked one waits; after it a locked port replays, sends NUL flits while its replay buffer is full or nothing is
to be sent, and sends reverse-direction packets even while data may not be sent, when neither the rest of a split packet nor a replay that carries data leaves; a port that is not locked when the guard ends misses the
slot. -/
def PortsSendInTheirSlots : Prop :=
  ∀ (s : State) (n : Fin 16) (part : Nat) (f : Figure) (start : Nat) (sl : Slot) (pkg pt : Nat), s.portPart n = some part → part < 8 →
    (s.part part).figure = some f → slotAt f s.time = some (start, sl) → slotFace sl n = some (pkg, pt) → (s.port n).packet = false →
    (s.port n).slotAt = start → (s.part part).dark = false → 7 ≤ s.pkg.stage → s.mayEmit n = true →
    let q := s.port n
    let dest := (pkg, pt / 8)
    let sends (fseq : Nat) (nul : Bool) (payload : List Byte) (q' : FPort) : Prop := ∃ t, exec (.flitSend n) s = .next t ∧
      (t.port n).sent = flitBytes q fseq nul payload ∧
      t.port n = { q' with sent := (t.port n).sent, injected := (t.port n).injected, window := s.time / 1024, lastTick := s.time + 1 }
    (s.time < start + sl.guard → (q.locked = false → sends q.fseq true [] q) ∧ (q.locked = true → exec (.flitSend n) s = .next s)) ∧
    (start + sl.guard ≤ s.time → q.locked = true → s.inTurn part n sl dest = true →
      (∀ r bs dflag, q.replaying = some r → s.allowHeld part = false ∨ dflag = false → q.replay.find? (fun x => decide (x.1 = r)) = some (r, bs, dflag) →
        sends r false bs { q with replaying := if (r + 1) % 4096 = q.fseq then none else some ((r + 1) % 4096) }) ∧
      (q.replaying = none → 1024 ≤ q.kept → sends q.fseq true [] q) ∧
      (q.replaying = none → q.kept < 1024 → s.txRest part dest = none → s.fab.relay = [] → s.allowHeld part = true ∨ s.fab.sendQ = [] →
        (s.fab.back = [] → sends q.fseq true [] q) ∧
        (∀ a rly, s.fab.back = [a] → a.part = part → a.port = some n.val → s.carries part dest a.pkt.dpkg a.pkt.ddie = some rly → a.pkt.ty = 7 →
          s.sendKey part a.pkt.dpkg a.pkt.ddie false = none →
          let payload := ({ a.pkt with rly := rly } : Packet).header 8 ++ padTo 8 a.pkt.data
          sends q.fseq false payload { q with fseq := (q.fseq + 1) % 4096, replay := q.replay ++ [(q.fseq, payload, false)] })) ∧
      (s.allowHeld part = true → q.kept < 1024 → s.fab.back = [] → s.fab.relay = [] → (∀ t, s.txRest part dest = some t → t.data = true) →
        (∀ r, q.replaying = some r → q.replaysData r = true) → sends q.fseq true [] q)) ∧
    (start + sl.guard ≤ s.time → q.locked = false →
      exec (.flitSend n) s = .next s ∧
      (q.nulls < 9 → exec (.relockFailure n) s = .next ((s.setPort n { q with nulls := 9 }).updPkg fun p => p.count (Counter.relockFail n))))

/-- The figure-mode ports in their slots.
The bytes of a flit that no rule lays out, and what the link layer keeps for each FACE, are the model's choices (assumptions 50, 78); that a NUL flit
carries the FSEQ to come and takes none is its reading, and what a flit holds while the rest of a split packet waits its choice (assumption 51). -/
def Obligations.FigurePortsInTheirSlots : Prop := SlotsBegin ∧ PortsSendInTheirSlots

/-- R331, R332, R334, R340, R432: FLIT_RECEIVE on the corrected bytes of a flit. A wrong check value asks for replay; NUL flits lock the port,
the eighth in a row, and tell a locked one whether a flit before them was lost; a data flit on an unlocked port is dropped; one that is not next, but not a repeat, asks for replay; the next one moves
RACK on, and a whole packet at its start has arrived, where no port of a lower number that faces the same destination may bring a flit of the
same tick. -/
def FlitsReceived : Prop :=
  ∀ (s : State) (n : Fin 16) (part : Nat) (bytes : List Byte), s.portPart n = some part → (s.part part).dark = false → 7 ≤ s.pkg.stage →
    let b := padTo 256 (Config.fecCorrect (padTo 256 bytes)).1
    let link := leNat ((b.drop 236).take 6)
    let q := s.port n
    ∃ t, exec (.flitReceive n bytes) s = .next t ∧
      if (b.drop 242).take 8 ≠ padTo 8 (Config.flitCrc (b.take 242)) ∨ bitsAt link 26 22 ≠ 0 then
        (t.port n).rrq = q.locked ∧ (t.port n).rack = q.rack ∧ (t.port n).locked = q.locked ∧ t.fab.arrived = s.fab.arrived
      else if link.testBit 25 then
        (t.port n).rack = q.rack ∧ (t.port n).locked = (q.locked || (decide (q.nulls = 7 ∨ q.nulls = 8) && s.mayLock part n)) ∧
        (q.locked = true → (t.port n).rrq =
          (decide (0 < (bitsAt link 0 12 + 4095 - q.rack) % 4096) && decide ((bitsAt link 0 12 + 4095 - q.rack) % 4096 < 2048))) ∧
        (q.locked = false ∨ (s.stream (s.streamKey part n)).later = [] → t.fab.arrived = s.fab.arrived)
      else if q.locked = false then
        (t.port n).rack = q.rack ∧ (t.port n).locked = false ∧ t.fab.rx = s.fab.rx ∧ t.fab.arrived = s.fab.arrived
      else if bitsAt link 0 12 ≠ (q.rack + 1) % 4096 then
        (t.port n).rack = q.rack ∧ (t.port n).rrq = (q.rrq || decide ((bitsAt link 0 12 + 4095 - q.rack) % 4096 < 2048)) ∧
        t.fab.arrived = s.fab.arrived
      else
        (t.port n).rack = bitsAt link 0 12 ∧ (t.port n).rrq = false ∧ (t.port n).locked = true ∧
        let head := b.take 16
        let size := wireSize (leNat head % 16) (bitsAt (leNat head) 33 8) false
        let p := Packet.ofWire head ((b.take size).drop 16)
        ((s.stream (s.streamKey part n)).rest = [] → (s.stream (s.streamKey part n)).later = [] → (nth 0 b 0).toNat % 16 ≠ 15 →
          (leNat head).testBit 31 = false → size = 236 ∨ (size < 236 ∧ (nth 0 b size).toNat % 16 = 15) → s.pkg.didv = true →
          s.pkg.free = false ∨ s.pkg.tblock = true →
          s.portPacket n = true ∨ (∀ m < n.val, s.portPacket m = true ∨ ∀ part', s.portPart m = some part' → s.streamKey part' m ≠ s.streamKey part n) →
          (Packet.ofWire head []).spkg ≠ s.pkg.domid → (Packet.ofWire head []).dpkg = s.pkg.domid →
          t.fab.arrived = s.fab.arrived ++ [{ die := p.ddie, port := some n.val, pkt := p, part, heldAt := none, came := s.time }])

/-- Every packet that a partition still has to send can reach its destination. -/
abbrev onlyRouted (t : State) (part : Nat) : Prop :=
  ∀ e ∈ t.fab.sendQ, e.part = part → (∃ p, e.item = .packet p) → t.routed part e.pkg e.ddie = true

/-- No packet that can still reach its destination is lost, where entries have numbers of their own. -/
abbrev keepsRouted (s t : State) (part : Nat) : Prop :=
  (s.fab.sendQ.map SendEnt.id).Nodup → ∀ e ∈ s.fab.sendQ, e.part ≠ part ∨ t.routed part e.pkg e.ddie = true → ∃ e' ∈ t.fab.sendQ, e'.id = e.id ∧ e'.item = e.item

/-- R339, R344, R345, R367, R368, R431: the changes of a figure table, of a port's mode and of a key. A committed table takes effect at its epoch, and
so does a port's new mode at a round boundary once its replay buffer is empty; both cancel the packets, and only those, that no route leads
to any more. A new key is used for figure-mode ports from a round boundary on, and for packet-mode ports once every packet sent to the
peer under another key has been acknowledged. -/
def FabricChanges : Prop :=
  ∀ (s : State) (part : Nat), part < 8 →
    let p := s.part part
    (∀ c, p.commit = some c →
      (exec (.holdPoint part) s = .next (if c.epoch ≤ s.time + c.hold then s.updPart part fun _ => { p with held := true } else s)) ∧
      (exec (.darkPhase part) s = .next (if 0 < c.hold ∧ c.epoch ≤ s.time + min c.hold 20000 then
        s.updPart part fun _ => { p with held := true, dark := true } else s)) ∧
      (c.epoch ≤ s.time → ∃ t, exec (.tableEpoch part) s = .next t ∧
        t.parts = (s.updPart part fun _ => { p with figure := some c, commit := none, held := true, dark := false }).parts ∧
        onlyRouted t part ∧ keepsRouted s t part ∧ t.dev = s.dev) ∧
      (s.time < c.epoch → exec (.tableEpoch part) s = .next s)) ∧
    (∀ (n : Fin 16), s.portPart n = some part → (s.port n).switching = true →
      ((s.port n).kept = 0 → s.atRound part = true → ∃ t, exec (.portModeSwitch n) s = .next t ∧
        (t.port n).packet = (s.port n).asked ∧ (t.port n).switching = false ∧ (t.port n).locked = false ∧ (t.port n).face = none ∧
        (∀ m : Fin 16, m ≠ n → t.port m = s.port m) ∧ t.parts = s.parts ∧ onlyRouted t part ∧ keepsRouted s t part ∧ t.dev = s.dev) ∧
      ((s.port n).kept ≠ 0 ∨ s.atRound part = false → exec (.portModeSwitch n) s = .next s)) ∧
    (∀ b, p.binds = [b] →
      let sent := s.fab.sendQ.any fun e => decide (e.part = part) && decide (2 * e.pkg + e.ddie = b.peer) && e.sent && !e.isSentRead &&
        decide (e.key ≠ b.handle)
      exec (.keySwitch part b.peer) s = .next (s.updPart part fun _ => { p with binds := [{ b with
        sendHandle := if s.atRound part then b.handle else b.sendHandle
        pktHandle := if sent then b.pktHandle else b.handle }] }))

/-- The flits that a port receives, and the changes of tables, port modes and keys.
The flit's check value and correction are open functions (assumption 7); replay's details, and which FSEQ a damaged flit
had, are the model's reading and choice (assumption 51), and the ticks of the switches its reading (assumption 55). -/
def Obligations.FlitsAndFabricChanges : Prop := FlitsReceived ∧ FabricChanges

/-- R185, R336, R346 to R349, R267, R333: a packet that has arrived, next in its queue, is performed at its destination. A write puts the bytes
of its mask into device memory and is acknowledged with their completion time; a read is answered with the bytes of its mask; an atomic
reads and writes and answers with the old value; the contributions of a reduction of two ranks are summed and written when the second
arrives; a packet of a reserved TYPE is refused with reason 7, and one whose hold has run out with reason 1. While the package takes no part in its traffic it waits,
and one that writes waits until the earlier writes of its queue are complete. When the package takes none is the model's choice (assumption 75), and that
completion is judged at the destination its reading (assumption 111). Details of held and refused packets are the model's reading (assumption 54); which bytes of a packet's extension hold which operand, rank and type is
its choice (assumption 50). -/
def Obligations.PacketsArePerformed : Prop :=
  ∀ (s : State) (a : Arrival) (ca : Nat) (tr : List TabRef), s.fab.arrived = [a] → s.fab.sendQ = [] → s.fab.back = [] →
    (s.takesPart a = false → ∀ i ∈ [Instr.write 0, .maskedWrite 0, .readRequest 0, .atomic 0, .reductionContribution 0, .reservedTypePacket 0,
      .holdExpiry 0, .acknowledgement 0, .refusal 0, .atomicResult 0, .readCompletion 0], exec i s = .next s) ∧
    (s.time < tget 0 s.fab.wrote a.srcQ → ∀ i ∈ [Instr.write 0, .maskedWrite 0, .atomic 0, .reductionContribution 0], exec i s = .next s) ∧
    (s.takesPart a = true → tget 0 s.fab.rxSeq a.srcQ = a.pkt.seq → tabWf 0 0 s.fab.rxSeq = true → tget 0 s.fab.wrote a.srcQ ≤ s.time → s.fab.late = [] → s.badDev = [] → (s.part a.part).regionRefuses ca 4 0 none = false →
    let w := s.destLine a true = .hit (.dev ca) tr ∧ s.tabRefs ca = [] ∧ s.holdOver a = false
    let answer (t : State) (p : Packet) : Prop := t.fab.arrived = [] ∧ tget 0 t.fab.rxSeq a.srcQ = (a.pkt.seq + 1) % 2 ^ 23 ∧
      ∃ r, t.fab.back = [r] ∧ r.pkt = p ∧ r.part = a.part ∧ r.die = a.die
    let back (ty : Nat) : Packet :=
      { ty := ty, dpkg := a.pkt.spkg, ddie := a.pkt.sdie, spkg := a.pkt.dpkg, sdie := a.pkt.ddie, rly := false, enc := false, cls := a.pkt.cls
        dlen := 0, seq := a.pkt.seq, addr := a.pkt.addr, aux := 0, mask := 0, ext := [], data := [] }
    (w → a.pkt.ty ≤ 1 → s.memWf → a.pkt.data.length = 128 → ca % 128 = 0 →
      ∃ t, (a.pkt.ty = 0 → exec (.write 0) s = .next t) ∧ (a.pkt.ty = 1 → exec (.maskedWrite 0) s = .next t) ∧
        answer t { back 7 with data := bytesOf (s.gwct ca) 8 } ∧ t.sets = s.sets ∧ t.lines = s.lines ∧
        (∀ i < 128, readByte t.dev (ca + i) = if a.pkt.mask.testBit i then a.pkt.data.getD i 0 else readByte s.dev (ca + i)) ∧
        ∀ x, x < ca ∨ ca + 128 ≤ x → readByte t.dev x = readByte s.dev x) ∧
    (s.destLine a false = .hit (.dev ca) tr → s.holdOver a = false → a.pkt.ty = 2 →
      ∃ t e p, exec (.readRequest 0) s = .next t ∧ t.fab.arrived = [] ∧ t.fab.back = [] ∧ t.fab.sendQ = [e] ∧ e.item = .packet p ∧ p.ty = 3 ∧
        p.dpkg = a.pkt.spkg ∧ p.ddie = a.pkt.sdie ∧ p.data = gatherMask a.pkt.mask 1 (readBytes s.dev ca 128) ∧ t.dev = s.dev) ∧
    (w → a.pkt.ty = 4 → a.pkt.spkg ≠ s.pkg.domid → a.pkt.aux % 64 = 0x20 → a.pkt.addr % 4 = 0 →
      let old := readLe s.dev (ca + a.pkt.addr % 128) 4
      let b := leNat (a.pkt.ext.take 8) % 2 ^ 32
      ∃ t, exec (.atomic 0) s = .next t ∧ answer t { back 5 with data := bytesOf old 16, ext := bytesOf (s.gwct ca) 8 } ∧
        t.dev = writeBytes s.dev (ca + a.pkt.addr % 128) (bytesOf ((old + b) % 2 ^ 32) 4)) ∧
    (∀ (o : Nat) (e : RedElem), w → a.pkt.ty = 6 → o < 32 → a.pkt.mask = 2 ^ o → a.pkt.addr = 4 * o → s.fab.reds = [e] → e.part = a.part → e.die = a.die →
      e.addr = 4 * o → e.nrank = 2 → e.ty = 0 → e.got.length = 1 → (∀ g ∈ e.got, g.1 = 0) → e.from_ = [] →
      leNat ((a.pkt.ext.drop 8).take 4) = 1 + 1 * 2 ^ 12 → leNat ((a.pkt.ext.drop 12).take 4) = 0 →
      let sum : Word := ((e.got.map (·.2)).getD 0 0) + BitVec.ofNat 32 (leNat ((a.pkt.data.drop (4 * o)).take 4))
      ∃ t, exec (.reductionContribution 0) s = .next t ∧ t.fab.reds = [] ∧ t.fab.arrived = [] ∧
        t.dev = writeBytes s.dev (ca + 4 * o) (bytesOf sum.toNat 4) ∧ ∃ r, t.fab.back = [r] ∧ r.pkt.ty = 7 ∧ r.pkt.seq = a.pkt.seq) ∧
    (9 ≤ a.pkt.ty → a.pkt.ty ≤ 14 → s.holdOver a = false → s.sysRecs = [] → (s.part a.part).fren = false →
      ∃ t r, exec (.reservedTypePacket 0) s = .next t ∧ answer t { back 8 with aux := 7 } ∧ t.sysRecs = [r] ∧ r.record.cls = 0x10 ∧
        r.record.reason = 7 ∧ t.dev = s.dev) ∧
    (∀ t0, a.heldAt = some t0 → a.pkt.ty ≤ 4 →
      (s.time < t0 + s.holdFor a → exec (.holdExpiry 0) s = .next s) ∧
      (t0 + s.holdFor a ≤ s.time → ∃ t r, exec (.holdExpiry 0) s = .next t ∧ t.fab.arrived = [] ∧ t.fab.rxSeq = s.fab.rxSeq ∧ t.fab.back = [r] ∧
        r.pkt = { back 8 with aux := 1 } ∧ t.dev = s.dev)))

/-- R261, R287, R336, R346, R351: what an answer does at the sender. An acknowledgement raises hx and takes the entry out of its queue;
an atomic's result and a read's completion also write their register; a refusal with reason 1 or 4 sets when the packet is sent again,
and RESEND puts it back; a store's refusal with reason 2 gives an error record; a drain marker with no packet ahead of it leaves.
Details of refused packets, and that a refusal names its packet by its address too, are the model's reading (assumptions 54, 80). -/
def Obligations.AnswersSettleTheirAccess : Prop :=
  ∀ (s : State) (l : Line) (a : Arrival) (e : SendEnt) (p : Packet) (w : PeerWait) (j : Nat) (n : Fin 32), s.fab.arrived = [a] → s.fab.back = [] →
    s.fab.sendQ = [e] → e.item = .packet p → e.sent = true → s.fab.waits = [w] → w.id = e.id → w.issuer = l.ref → s.line l.ref = some l →
    (∀ m ∈ s.lines, m.status ≠ .ended) → (∀ x ∈ s.sets, x.phase ≠ .ended) → w.red = false → w.done = none →
    (e.die, e.pkg, e.ddie, e.cls) = (a.pkt.ddie, a.pkt.spkg, a.pkt.sdie, a.pkt.cls) → p.seq = a.pkt.seq →
    (w.die, w.pkg, w.ddie, w.cls, w.seq) = (e.die, e.pkg, e.ddie, e.cls, p.seq) → s.takesPart a = true →
    let settled (i : Instr) (m : Line) : Prop := ∃ t, exec i s = .next t ∧ t.fab.sendQ = [] ∧ t.fab.waits = [] ∧ t.fab.arrived = [] ∧
      t.line l.ref = some m ∧ t.dev = s.dev ∧ t.sets = s.sets
    let g := leNat (a.pkt.data.take 8)
    (a.pkt.ty = 7 → settled (.acknowledgement 0) { l with hx := max l.hx g }) ∧
    (a.pkt.ty = 5 → w.dsts = [(j, some n.val, 0, 4)] → (j, n.val) ∈ l.pend → n ≠ 0 →
      settled (.atomicResult 0) { l.setX j n (BitVec.ofNat 32 g) with
        pend := l.pend.filter fun x => decide (x ≠ (j, n.val)), hx := max l.hx (leNat (a.pkt.ext.take 8)) }) ∧
    (a.pkt.ty = 3 → p.ty = 2 → w.kind = .load → w.acq = false → w.sx = false → w.dsts = [(j, some n.val, 0, 4)] → (j, n.val) ∈ l.pend → n ≠ 0 →
      tget 0 s.fab.rxSeq a.srcQ = a.pkt.seq → s.holdOver a = false → settled (.readCompletion 0) { l.setX j n (BitVec.ofNat 32 (leNat (a.pkt.data.take 4))) with
        pend := l.pend.filter fun x => decide (x ≠ (j, n.val)) }) ∧
    (a.pkt.ty = 8 → p.addr = a.pkt.addr →
      (bitsAt a.pkt.aux 0 4 = 1 ∨ bitsAt a.pkt.aux 0 4 = 4 → ∃ t, exec (.refusal 0) s = .next t ∧
        t.fab.sendQ = [{ e with notBefore := max 1 (s.resendAt e) }] ∧ t.fab.waits = [w] ∧ t.lines = s.lines) ∧
      (bitsAt a.pkt.aux 0 4 = 2 → w.kind = .store → w.dsts = [] → ∃ t m r, exec (.refusal 0) s = .next t ∧ t.fab.sendQ = [] ∧ t.fab.waits = [] ∧
        t.line l.ref = some m ∧ m.errs = l.errs ++ [(7, r)] ∧ r.cls = 0x09 ∧ r.reason = 2 ∧ r.addr = w.va ∧ m.threads = l.threads)) ∧
    (0 < e.notBefore →
      (e.notBefore ≤ s.time → exec (.resend e.id) s = .next (s.updFab fun f => { f with sendQ := [{ e with sent := false, notBefore := 0 }] })) ∧
      (s.time < e.notBefore → exec (.resend e.id) s = .next s)) ∧
    (∀ m r, m.item = .marker r → m.id ≠ e.id →
      (exec (.drainMarkerAck m.id) { s with fab := { s.fab with sendQ := [m, e] } } = .next s) ∧
      (p.ty ≠ 3 → (m.die, m.pkg, m.ddie, m.cls) = (e.die, e.pkg, e.ddie, e.cls) →
        exec (.drainMarkerAck m.id) { s with fab := { s.fab with sendQ := [e, m] } } = .next { s with fab := { s.fab with sendQ := [e, m] } }))

/-! ## The scheduler (17_scheduling.md) -/

/-- R386, R390, R391, R397: TAIL_WRITE and ERR_CLEAR of a queue's owner; PACKET_READ of a host ring enters the packet as a grid, or stops
the queue with the packet's code; the dependence, whose word in device memory is watched while it is not met, and the START time let a
waiting grid become dispatchable, with the later of its START and the tick from which nothing else has held it.
The checks of packets and the order of start times are the model's reading (assumptions 37, 41 and 42). -/
def Obligations.QueuesBecomeGrids : Prop :=
  ∀ (s : State) (q : Nat), q < 1024 → tabWf QueueRegs.reset 0 s.queues = true →
    let r := s.queue q
    (s.functionUp r.qpart = true →
      (∀ v : Word, (v - r.head).toNat ≤ 2 ^ r.qsz → exec (.tailWrite q v) s = .next (s.setQueue q { r with tail := v, tailG := s.postedG, tailT := s.postedT })) ∧
      (∀ v : Word, 2 ^ r.qsz < (v - r.head).toNat → exec (.tailWrite q v) s = .next (s.setQueue q (r.stop 8))) ∧
      ∃ r' : QueueRegs, exec (.errClear q) s = .next (s.setQueue q r') ∧ r'.err = false ∧ fld r'.ctl 20 4 = 0 ∧ fld r'.ctl 0 16 = fld r.ctl 0 16 ∧
        r' = { r with ctl := r'.ctl }) ∧
    (∀ p : Vector Word 32, s.mayRead q = true → r.qloc = false → s.grids = [] →
      (∀ i : Fin 32, p[i] = BitVec.ofNat 32 (readLe s.hostMem (fld r.qbhi 0 25 * 2 ^ 32 + r.qblo.toNat + 128 * (r.head.toNat % 2 ^ r.qsz) + 4 * i) 4)) →
      (pktErr p = 0 → fld p[0] 0 4 = 1 → fld p[1] 13 2 = 1 →
        ∃ t g, exec (.packetRead q) s = .next t ∧ t.grids = [g] ∧ (t.queue q).head = r.head + 1 ∧ g.state = .waiting ∧ g.queue = q ∧
          g.part = r.qpart ∧ g.sup = r.sup ∧ g.count = p[2].toNat + 1 ∧ g.next = 0 ∧ g.tread = s.time ∧ g.depMet = false ∧
          fld (pkWord g.pkt 0) 4 3 = min (fld p[0] 4 3) r.pmax ∧ ∀ i : Fin 32, i ≠ 0 → g.pkt[i] = p[i]) ∧
      (pktErr p ≠ 0 → ∃ t g, exec (.packetRead q) s = .next t ∧ t.grids = [g] ∧ g.state = .refused ∧ g.errc = pktErr p ∧
        (t.queue q).err = true ∧ (t.queue q).head = r.head + 1)) ∧
    (∀ g : Grid, s.grids = [g] → g.queue = q → g.state = .waiting → r.sigPkt = none → r.prev = none → pkRsvc g.pkt = false →
      let ready (t : State) (d : Nat) : Prop := ∃ g', t.grids = [g'] ∧ t.sets = s.sets ∧ t.dev = s.dev ∧ (t.queue q).prev = some g.id ∧
        g'.state = .dispatchable ∧ g'.dispTick = d ∧ g'.pkt = g.pkt ∧ g'.next = g.next
      let since := g.free.getD s.time
      let start := pkDouble g.pkt 10
      (g.depMet = true →
        (start ≤ s.time → ∃ t, exec (.startTimestamp q) s = .next t ∧ ready t (max start since)) ∧
        (s.time < start → exec (.startTimestamp q) s = .next { s with grids := [{ g with free := some since }] })) ∧
      (g.depMet = false → pkDouble g.pkt 6 < 2 ^ 57 → start ≤ s.time →
        let holds (v : Nat) : Prop := match fld (pkWord g.pkt 1) 13 2 with
          | 1 => pkDouble g.pkt 8 ≤ v | 2 => v = pkDouble g.pkt 8 | 3 => v ≠ pkDouble g.pkt 8 | _ => True
        (∀ ca tr, s.translate none 0 r.qpart false (pkDouble g.pkt 6) false false = .hit (.dev ca) tr → s.badDev = [] →
          (holds (readLe s.dev ca 8) → ∃ t, exec (.dependenceRead q) s = .next t ∧ ready t (max start since)) ∧
          (¬ holds (readLe s.dev ca 8) → ∃ t, exec (.dependenceRead q) s = .next t ∧ t.grids = [g] ∧ (t.queue q).watch = some ca) ∧
          exec (.dependencePoll q) s = .next s) ∧
        (∀ a tr, s.translate none 0 r.qpart false (pkDouble g.pkt 6) false false = .hit (.host a) tr →
          (s.time < r.pollAt → exec (.dependencePoll q) s = .next s) ∧
          (r.pollAt ≤ s.time → holds (readLe s.hostMem a 8) → ∃ t, exec (.dependencePoll q) s = .next t ∧ ready t (max start since)) ∧
          (r.pollAt ≤ s.time → ¬ holds (readLe s.hostMem a 8) →
            ∃ t, exec (.dependencePoll q) s = .next t ∧ t.grids = [g] ∧ (t.queue q).pollAt = s.time + 1000))))

/-- R389, R392, R378 to R380: PLACEMENT puts the next set of the one dispatchable grid on the lowest eligible core, with the packet's
registers; LINES_RESIDENT makes it resident at its tick, the lines younger than every line before them; CONTEXT_SAVE takes a set that has come to rest off its core into an image, and
CONTEXT_RESTORE brings its window back from memory.
What a line holds at launch, and what a restore takes from memory, are the model's reading (assumptions 40 and 60), and so are the tick of a
placement's end and the number that stands for a line's age (assumptions 42 and 12); that an image area which the partition does not own has no
room is its choice (assumption 95). -/
def Obligations.SetsComeAndGo : Prop :=
  ∀ (s : State) (g : Grid), s.grids = [g] → g.state = .dispatchable → g.plan = [] →
    (∀ core, s.sets = [] → s.lines = [] → s.pkg.limited = false → g.images = [] → g.next < g.count → pkRsvc g.pkt = false → pktErr g.pkt = 0 →
      pkType g.pkt = 1 → pkHall g.pkt = 1 → s.lastPlace[0] = 0 → core < 80 → (s.part g.part).eligible (pkPers g.pkt) core = true →
      (∀ c < core, (s.part g.part).eligible (pkPers g.pkt) c = false) →
      ∃ t c g', exec (.placement 0) s = .next t ∧ t.sets = [c] ∧ c.core = core ∧ c.ref = { grid := g.id, set := g.next } ∧ c.part = g.part ∧
        c.phase = .placed (s.time + s.cycles 64) ∧ c.win = pkWin g.pkt ∧ c.spad = [] ∧ c.full = [] ∧ t.grids = [g'] ∧ g'.next = g.next + 1 ∧
        t.lines.length = pkLines g.pkt ∧
        ∀ i < pkLines g.pkt, ∃ l, t.line { grid := g.id, set := g.next, line := i } = some l ∧ l.core = core ∧ l.lane = i ∧ l.pc = pkWord g.pkt 3 ∧
          l.status = .ready ∧ l.pl = g.sup ∧ l.active = allThreads (pkWidth g.pkt) ∧
          (∀ n < 16, l.k.getD n 0 = if 2 ≤ n ∧ n < pkKregs g.pkt then pkWord g.pkt (16 + n) else 0) ∧
          ∀ j < pkWidth g.pkt, ∀ n < 32, l.x j n = 0) ∧
    (∀ c a, s.sets = [c] → c.ref.grid = g.id → c.hall = c.ref.set → c.hsize = 1 →
      (c.phase = .placed a → pkRsvc g.pkt = false →
        (s.time < a → exec (.linesResident c.ref) s = .next s) ∧
        (a ≤ s.time → ∃ t, exec (.linesResident c.ref) s = .next t ∧ t.sets = [{ c with phase := .resident }] ∧ t.dev = s.dev ∧
          t.lines.map Line.ref = s.lines.map Line.ref ∧
          ∀ r l, s.line r = some l → ∃ m, t.line r = some m ∧ m = { l with age := m.age, slot := m.slot } ∧
            (setOf r = c.ref → m.age = s.nextId) ∧ (setOf r ≠ c.ref → m = l))) ∧
      (c.phase = .stopping → (s.atRest c = false → exec (.contextSave c.ref) s = .next s) ∧
        (s.atRest c = true → g.images = [] → g.part = c.part → (s.imageOf c 0).size ≤ (s.imageArea c.part).2 →
          ∃ t im g', exec (.contextSave c.ref) s = .next t ∧ t.sets = [] ∧ (∀ l ∈ t.lines, setOf l.ref = c.ref → l.status = .ended) ∧
            t.grids = [g'] ∧ g'.images = [im] ∧ im.set.ref = c.ref ∧ im.addr = (s.part c.part).cxbase * 0x10000 ∧
            let ls := (s.linesOf c.ref).filter fun (l : Line) => decide (l.status ≠ .ended)
            im.lines.map Line.ref = ls.map Line.ref ∧
            (s.bankQ = [] → s.waitQ = [] → (∀ m ∈ s.lines, m.grants = []) → im.set = c ∧ im.lines = ls.map Line.saved))) ∧
      (∀ im, c.phase = .restoring a → g.images = [im] → im.set.ref = c.ref → im.copies = [] → im.drains = [] →
        (s.time < a → exec (.contextRestore c.ref) s = .next s) ∧
        (a ≤ s.time → ∃ t c' g', exec (.contextRestore c.ref) s = .next t ∧ t.sets = [c'] ∧ c'.ref = c.ref ∧ c'.core = c.core ∧ c'.slot = c.slot ∧
          (im.lines ≠ [] → c'.phase = .resident) ∧ c'.qdst = im.set.qdst ∧ t.grids = [g'] ∧ g'.images = [] ∧
          (∀ i < c.win, readByte c'.spad i = readByte s.dev (im.addr + 0x80000 + i)) ∧
          ∀ n < 32, s.badSetWords im.addr = false → (c'.slots.getD n (Vector.replicate 10 0)).getD 0 0 = BitVec.ofNat 32 (readLe s.dev (im.addr + 0x100 + 40 * n) 4))))

/-- R199, R394 to R396: COMPLETION_RECORD of a grid whose sets have ended and whose writes are complete stores its record and, when it
has a signal, COMPLETION_SIGNAL stores the signal after it; a refused packet's record has STAT 3; a signal packet stores its signal and
then its record. The stores meet no region and no page-table line under whose entries accesses are in flight; what a region does to
them is the model's choice (assumption 71). -/
def Obligations.GridsComplete : Prop :=
  ∀ (s : State) (g : Grid) (ca : Nat) (tr : List TabRef), s.grids = [g] → s.sets = [] → s.lines = [] →
    let free (part a : Nat) : Prop := (s.part part).regionRefuses a 6 0 none = false ∧ s.tabRefs a = []
    let hits (va : Nat) : Prop := va < 2 ^ 57 ∧ s.translate none 0 g.part false va true false = .hit (.dev ca) tr ∧ free g.part ca
    (hits (pkDouble g.pkt 12) → g.errc < 256 →
      (g.state = .dispatchable → g.count ≤ g.next → g.count ≤ g.ended → s.gridIdle g = true → g.lastG ≤ s.time →
        ∃ t bs, exec (.completionRecord g.id) s = .next t ∧ t.dev = writeBytes s.dev ca bs ∧ bs.length = 64 ∧
          leNat (bs.take 4) = 1 + g.errc * 0x100 + pkGtag g.pkt * 0x10000 ∧ leNat ((bs.drop 4).take 4) = (g.count - 1) % 2 ^ 32 ∧
          leNat ((bs.drop 8).take 4) = g.killed % 2 ^ 32 ∧ leNat ((bs.drop 12).take 4) = g.queue % 2 ^ 32 ∧
          leNat ((bs.drop 32).take 8) = s.time % 2 ^ 64 ∧
          (pkDouble g.pkt 14 = 0 → t.grids = []) ∧ (pkDouble g.pkt 14 ≠ 0 → t.grids = [{ g with state := .recorded (s.gwct ca), late := [] }])) ∧
      (g.state = .dispatchable → s.time < g.lastG → exec (.completionRecord g.id) s = .next s) ∧
      (g.state = .refused → ∃ t bs, exec (.completionRecord g.id) s = .next t ∧ t.dev = writeBytes s.dev ca bs ∧ t.grids = [] ∧
        leNat (bs.take 4) = 3 + g.errc * 0x100 + pkGtag g.pkt * 0x10000)) ∧
    (∀ x, g.state = .recorded x → hits (pkDouble g.pkt 14) →
      (s.time < x ∨ s.tabDone g.late = false → exec (.completionSignal g.id) s = .next s) ∧
      (x ≤ s.time → s.tabDone g.late = true → ∃ t, exec (.completionSignal g.id) s = .next t ∧ t.dev = writeBytes s.dev ca (bytesOf (pkDouble g.pkt 16) 8) ∧ t.grids = [])) ∧
    (∀ (q : Nat) (p : Vector Word 32) (ca2 : Nat) (tr2 : List TabRef), let r := s.queue q
      tabWf QueueRegs.reset 0 s.queues = true → r.sigPkt = some p → r.sigDep = true → r.prev = none → pkDouble p 10 ≤ s.time → pkDouble p 14 ≠ 0 → pkDouble p 14 < 2 ^ 57 → pkDouble p 12 < 2 ^ 57 →
      s.translate none 0 r.qpart false (pkDouble p 14) true false = .hit (.dev ca) tr →
      s.translate none 0 r.qpart false (pkDouble p 12) true false = .hit (.dev ca2) tr2 → free r.qpart ca → free r.qpart ca2 →
      ∃ t bs, exec (.signalPacket q) s = .next t ∧ t.dev = writeBytes (writeBytes s.dev ca (bytesOf (pkDouble p 16) 8)) ca2 bs ∧
        leNat (bs.take 4) = 1 + pkGtag p * 0x10000 ∧ bs.length = 64 ∧ (t.queue q).sigPkt = none)

/-! ## The host's link, registers and commands (07_consistency_model.md, 16_privileged_state.md, 19_partitions_and_trust.md) -/

/-- R180, R192, R363, R364, R412: HOST_WRITE reaches host memory, NumVFs and device memory that a partition owns, a write that is not posted
waiting for its answer until the write is complete; HOST_READ answers once every posted write is complete; a command event performs the minor that CMDOP holds, with the effect of the privileged instruction, and
CMDRES takes its result; a minor without a command gives 0xFFFFFFFF. The package sideband reads the bring-up status word at all times (R420).
That the link is up from STAGE 5 on is the model's reading (assumption 46), that NumVFs has two bytes and holds at most 7 is presumed (assumption
82), and what CMDOP reads after a minor without a command is the model's choice (assumption 92). -/
def Obligations.HostAccessesAndCommands : Prop :=
  ∀ (s : State) (part : Nat),
    (∀ a bs, exec (.hostWrite (.host a) bs true) s = .next { s with hostMem := writeBytes s.hostMem a bs }) ∧
    (∀ n posted, n ≤ 7 → s.linkUp = true →
      exec (.hostWrite .numVfs (bytesOf n 2) posted) s = .next { s with pkg := { s.pkg with numVfs := n } }) ∧
    (∀ pa bs posted, s.linkUp = true → isDev pa = true → bs ≠ [] → pa % 128 + bs.length ≤ 128 → s.ownerOf (canon pa) = some part →
      (s.part part).regionRefuses (canon pa) 5 0 none = false → s.tabRefs (canon pa) = [] →
      ∃ t, exec (.hostWrite (.dev pa) bs posted) s = .next t ∧ t.dev = writeBytes s.dev (canon pa) bs ∧ t.lines = s.lines ∧ t.sets = s.sets ∧
        (posted = true → s.gwct (canon pa) ≤ t.postedG) ∧ (posted = false → ∃ x, s.gwct (canon pa) ≤ x ∧ t.cxlWait = s.cxlWait ++ [(x, [])])) ∧
    (∀ pa n, s.linkUp = true → isDev pa = true → 0 < n → pa % 128 + n ≤ 128 → s.ownerOf (canon pa) = some part → s.badDev = [] →
      (s.postedG ≤ s.time → s.tabDone s.postedT = true → exec (.hostRead (.dev pa) n) s = .next { s with hostRead := readBytes s.dev (canon pa) n })) ∧
    (∀ x n, s.time < s.postedG ∨ s.tabDone s.postedT = false → x ≠ .sideband → exec (.hostRead x n) s = .next s) ∧
    (∀ n, exec (.hostRead .sideband n) s = .next { s with hostRead := bytesOf (s.pkg.bringupGet 0).toNat 4 }) ∧
    (s.functionUp part = true → (s.part part).cmdBusy = true →
      let p := s.part part
      let arg (n : Nat) : Word := p.cmda.getD n 0
      let gives (i : Instr) (t : State) (v : Word) : Prop := exec i s = .next (t.updPart part fun p => { p with cmdBusy := false, cmdres := v })
      (s.handleCore part (arg 0)).isSome = true →
      (∀ l v, p.cmdop = 2 → s.lineAt part (arg 0) = some l → l.status = .trapped →
        l.imageWord (match s.cset (setOf l.ref) with | some c => c.hall | none => 0) (arg 1).toNat = some v → gives (.hostCxrd part) s v) ∧
      (∀ l l', p.cmdop = 3 → s.lineAt part (arg 0) = some l → l.status = .trapped → s.line l.ref = some l → (∀ n, (l.port n).held = none) →
        l.imageWrite (match s.cset (setOf l.ref) with | some c => c.hall | none => 0) s.nextId (arg 1).toNat (arg 2) = some l' →
        ∃ t, exec (.hostCxwr part) s = .next t ∧ (t.part part).cmdBusy = false ∧ t.lines = (s.setLine l').lines ∧ t.dev = s.dev) ∧
      (∀ l, p.cmdop = 4 → s.lineAt part (arg 0) = some l → l.status ≠ .trapped → (arg 2).toNat < 4 → gives (.hostLresume part) s 0) ∧
      (∀ l, p.cmdop = 4 → s.lineAt part (arg 0) = some l → l.status = .trapped → l.recStage = .done → l.record.seq = fld (arg 1) 0 16 → arg 2 = 0 →
        s.line l.ref = some l → (∀ n, (l.port n).bound = false) →
        ∃ t u, exec (.hostLresume part) s = .next t ∧ (t.part part).cmdres = 1 ∧ t.line l.ref = some u ∧ u.status = .ready ∧ u.pc = l.pc ∧ u.tri = l.tri) ∧
      (∀ c, p.cmdop = 9 → fld (arg 0) 4 6 = 0 → s.setAt part (arg 0) = some c → c.phase ≠ .stopping → s.imageRoom c = true →
        ∃ t, exec (.hostSpreempt part) s = .next t ∧ (t.part part).cmdres = 1 ∧ ∀ x ∈ t.sets, x.ref.grid = c.ref.grid → x.hall = c.hall → x.phase = .stopping) ∧
      (∀ core q o cls ad, p.cmdop = 10 → arg 2 = 0 → s.handleCore part (arg 0) = some core → fld (arg 0) 0 3 = 0 → fld (arg 0) 3 7 = 64 + q → q < 4 →
        s.copyHead core q = some o → o.part = part → o.state = .stopped cls ad → gives (.hostQctl part) (s.setCopy { o with state := .started }) 1)) ∧
    (∀ op : Fin 16, s.functionUp part = true → (s.part part).cmdBusy = false → op.val ∉ [2, 3, 4, 9, 10] →
      exec (.cmdopInvalid part op) s = .next (s.updPart part fun p => { p with cmdop := op, cmdres := 0xFFFFFFFF }))

/-- R363, R364, R366 to R368, R371, R387, R402, R413, R419: writes of registers through a function: FREN with its tables apart, KBIND, PMODE,
PEN, AGE, GRLO and KPEER; a function that NumVFs does not enable reaches nothing, and one that is not the physical one changes none of the
package's registers.
What PEN clears is the model's reading (assumption 38). -/
def Obligations.RegisterWrites : Prop :=
  ∀ (s : State) (part : Nat) (v : Word), part < 8 → s.linkUp = true →
    let p := s.part part
    (s.hasFunction part = false → ∀ bar2 off, exec (.registerWrite part bar2 off v) s = .next s) ∧
    (p.pen = true → s.hasFunction part = true →
      (p.fren = true → bit v 0 = true → exec (.frenWrite part v) s = .next s) ∧
      (p.fren = false → bit v 0 = true → s.lines = [] → s.sysRecs = [] →
        ∃ q : Partition, exec (.frenWrite part v) s = .next (s.updPart part fun _ => q) ∧ q.frhi = p.frhi ∧ fld q.frlo 16 16 = fld v 16 16 ∧
          (q.fren = true ↔ ¬ (q.frbase < q.fpbase + 0x8000 ∧ q.fpbase < q.frbase + 0x1000000))) ∧
      (p.binds = [] → fld v 0 16 ≠ 0 →
        ((∃ k ∈ p.keys, k.handle = fld v 0 16 ∧ k.pkg = p.kpeer / 2) → exec (.kbindWrite part v) s = .next (s.updPart part fun _ =>
          { p with binds := [{ peer := p.kpeer, handle := fld v 0 16, sendHandle := 0, pktHandle := 0, olds := [] }] })) ∧
        ((∀ k ∈ p.keys, ¬ (k.handle = fld v 0 16 ∧ k.pkg = p.kpeer / 2)) → exec (.kbindWrite part v) s = .next s)) ∧
      (∃ t, exec (.pmodeWrite part v) s = .next t ∧ t.fab.sendQ = s.fab.sendQ ∧ t.parts = s.parts ∧ ∀ n : Fin 16, t.port n =
        if p.pport.testBit n = true ∧ (s.port n).switching = false ∧ bit v n ≠ (s.port n).asked then
          { s.port n with asked := bit v n, switching := true } else s.port n) ∧
      (exec (.registerWrite part false 0x10000 v) s = .next (s.updPart part fun _ => { p with age := fld v 0 24 })) ∧
      (exec (.registerWrite part false 0x20000 v) s = .next ((s.updPart part fun _ => { p with grlo := v &&& 0xFFFFF001 }).dropTables part false)) ∧
      (exec (.registerWrite part true 0x180 v) s = .next (s.updPart part fun _ => { p with kpeer := fld v 0 13 }))) ∧
    (part ≠ 0 → ∀ off, 0x30000 ≤ off → off < 0x40000 ∨ 0x41000 ≤ off → off % 4 = 0 → exec (.registerWrite part false off v) s = .next s) ∧
    (bit v 0 = true → bit v 1 = false → p.pen = false →
      (s.clashes part p = true → exec (.penWrite part v) s = .next (s.updPart part fun _ => { p with pcerr := true })) ∧
      (s.clashes part p = false → ∃ q : Partition, exec (.penWrite part v) s = .next (s.updPart part fun _ => q) ∧ q.pen = true ∧ q.keys = [] ∧
        q.binds = [] ∧ q.regions = [] ∧ q.figure = none ∧ q.mrs = Vector.replicate 4 mrZero ∧ q.cores = p.cores ∧ q.ranges = p.ranges ∧
        q.pport = p.pport)) ∧
    (bit v 0 = false → bit v 1 = false → p.pen = true →
      (s.partBusy part = true → exec (.penWrite part v) s = .next (s.updPart part fun _ => { p with pcerr := true })) ∧
      (s.partBusy part = false → exec (.penWrite part v) s = .next (s.updPart part fun _ =>
        { p with pen := false, keys := [], binds := [], busy := false, cmdEnd := none })))

/-! ## Attestation and the package (19_partitions_and_trust.md, 20_bringup_and_health.md) -/

/-- R9, R415 to R418: the commands of a partition's attestation engine. A write of OP begins a command and BUSY reads 1; the command ends with
its results when time passes, and until then a write of OP is ignored and gives RES 1, and a write of the buffer is ignored. A command that its checks refuse
gives its code and leaves the keys; a LEN above 1,024 begins none, gives RES 2 and leaves the field as it was.
How long a command takes and from which state it reads are the model's choices (assumption 45); its signatures and key
agreement are open functions, and its digest is presumed to be SHAKE256 as it is published (assumption 7). -/
def Obligations.AttestationCommands : Prop :=
  ∀ (s : State) (part : Nat) (v : Word), s.functionUp part = true →
    let p := s.part part
    let b (off n : Nat) : List Byte := readBytes p.buf off n
    let op (code : Nat) : Word :=
      putBits (putBits (putBits p.op 4 2 (fld v 4 2)) 0 3 code) 16 11 (if fld v 16 11 ≤ 1024 then fld v 16 11 else fld p.op 16 11)
    let commands := [Instr.extend part v, .quote part v, .newkey part v, .agree part v, .revoke part v, .cert part v]
    (p.busy = true →
      (∀ n i, commands[n]? = some i → fld v 0 3 = n + 1 → exec i s = .next (s.updPart part fun _ => { p with res := 1 })) ∧
      (∀ off w, 0x100 ≤ off → off < 0x900 → off % 4 = 0 →
        exec (.registerWrite part false (0x40000 + off) w) s = .next s) ∧
      (∀ r n, p.cmdEnd = some r → 0 < n →
        let q := (s.pass n).part part
        q.busy = false ∧ q.mrs = r.mrs ∧ q.buf = r.buf ∧ q.keyGen = r.keyGen ∧ q.keys = r.keys ∧ q.hnd = r.hnd ∧ q.res = r.res)) ∧
    (p.busy = false →
      let gives (i : Instr) (code : Nat) (q : Partition) : Prop := fld v 0 3 = code → fld v 16 11 ≤ 1024 →
        ∃ r, exec i s = .next (s.updPart part fun _ => { p with op := op code, busy := true, cmdEnd := some r }) ∧
          ({ p with op := op code, busy := true, cmdEnd := some r } : Partition).endCommand = { q with op := op code, cmdEnd := none }
      let h := fld p.aarg 0 12
      (∀ n i, commands[n]? = some i → fld v 0 3 = n + 1 → 1024 < fld v 16 11 →
        exec i s = .next (s.updPart part fun _ => { p with op := op (n + 1), res := 2 })) ∧
      (let mr := shake256 (p.mrs.getD (fld v 4 2) mrZero ++ shake256 (b 0 (fld v 16 11)) 64) 64
       gives (.extend part v) 1 { p with mrs := p.mrs.setIfInBounds (fld v 4 2) mr, res := 0 }) ∧
      (let quote := s.quoteBody part ++ padTo 114 (Config.ed448Sign Config.deviceKey "Cridezo quote" (s.quoteBody part))
       gives (.quote part v) 2 { p with buf := writeBytes p.buf 0 quote, res := 0 }) ∧
      (gives (.newkey part v) 3 { p with keyGen := p.keyGen + 1, res := 0 }) ∧
      (let code : Nat :=
         if s.pkg.didv = false then 2
         else if Config.ed448Verify Config.rootPublic "Cridezo device" (b 0 73) (b 73 114) = false then 3
         else if Config.ed448Verify (b 16 57) "Cridezo quote" (b 256 616) (b 872 114) = false then 4
         else if leNat (b 260 2) / 8 % 4096 ≠ h then 6
         else if b 272 32 ≠ shake256 (p.pubKey part) 32 then 5
         else if 4095 ≤ p.keys.length then 7 else 0
       ∃ k : KeyEnt, k.pkg = h ∧ k.handle = p.freeHandle ∧ (k.out, k.in_) = deriveKeys (s.pkg.domid % 4096) h (p.privKey part) (p.pubKey part) (b 816 56) ∧
        gives (.agree part v) 4 (if code = 0 then { p with keys := p.keys ++ [k], hnd := k.handle, res := 0 } else { p with res := code })) ∧
      ((∀ k ∈ p.keys, k.handle ≠ h) → gives (.revoke part v) 5 { p with res := 9 }) ∧
      ((∃ k ∈ p.keys, k.handle = h) → (∃ x ∈ p.binds, x.handle = h) → gives (.revoke part v) 5 { p with res := 8 }) ∧
      ((∃ k ∈ p.keys, k.handle = h) → (∀ x ∈ p.binds, x.handle ≠ h) →
        gives (.revoke part v) 5 { p with keys := p.keys.filter fun (k : KeyEnt) => decide (k.handle ≠ h), res := 0 }) ∧
      (gives (.cert part v) 6 { p with buf := writeBytes p.buf 0 certificate, res := 0 }))

/-- R420 to R422, R427: bring-up and power. POWER_ON begins at step 1; each step that ends well leads to the next, one that fails holds
the package; READY is set in step 8; DOMID is written once; the power check lowers the clock before it limits placement, and raises it
after a million calm ticks, as far as firmware asks; removing power leaves the flash, the numbering of key pairs and what is outside the package. -/
def PackageSteps : Prop :=
  ∀ (s : State) (v : Word) (data : List Byte) (mw hot : Nat),
    let p := s.pkg
    let leads (i : Instr) (q : Package) : Prop := exec i s = .next { s with pkg := q }
    let off : State := { State.reset with
      schedule := s.schedule, freeCtr := s.freeCtr, hostMem := s.hostMem, hostRead := s.hostRead
      parts := Vector.ofFn fun n : Fin 8 => { State.reset.parts.get n with keyGen := (s.parts.get n).keyGen }
      pkg := { Package.reset with slotA := p.slotA, slotB := p.slotB } }
    (p.power = false → leads .powerOn { p with power := true, stage := 1, lastCheck := s.time, lastWrite := s.time }) ∧ (p.power = true → leads .powerOn p) ∧
    (exec .powerFail s = .next off) ∧ (exec (.thermalTrip hot) s = .next (if 115 ≤ hot then off else s)) ∧
    (p.power = true → p.fail = 0 →
      (p.stage = 1 → leads (.bringupStep true data) { p with stage := 2 }) ∧
      (∀ ok, p.stage = 3 → leads (.bringupStep ok data) (if ok && Config.firmwareValid data then
        { p.extend 0 data with firmware := data, stage := 4 } else { p with fail := 3 })) ∧
      (p.stage = 4 → ∃ t, exec (.bringupStep true data) s = .next t ∧ t.dev = [] ∧ t.pkg.stage = 5) ∧
      (p.stage = 5 → ∃ t, exec (.bringupStep true data) s = .next t ∧ t.part 0 = { Partition.reset true with keyGen := (s.part 0).keyGen + 1 } ∧ t.pkg.stage = 6) ∧
      (p.stage = 6 → leads (.bringupStep true data) (if p.tblock || p.free then { p with stage := 7 } else p)) ∧
      (p.stage = 8 → p.everReady = false → leads (.bringupStep true data) { p with ready := true, everReady := true }) ∧
      (∀ n, p.stage = n → n = 1 ∨ n = 2 ∨ n = 4 ∨ n = 5 → leads (.bringupStep false data) { p with fail := n })) ∧
    (p.fail ≠ 0 → leads (.bringupStep true data) p) ∧
    (s.linkUp = true → leads (.freeWrite v) { p with free := bit v 10 } ∧
      (p.didv = false → leads (.domidWrite v) { p with domid := fld v 0 12, didv := bit v 31 }) ∧ (p.didv = true → leads (.domidWrite v) p)) ∧
    ((s.time : Int) < p.lastCheck + 10000 → leads (.powerCheck mw hot) p) ∧
    (p.power = true → p.lastCheck + 10000 ≤ (s.time : Int) →
      (2400000 < mw ∨ 105 < hot →
        (16 < p.clks → leads (.powerCheck mw hot) { p with lastCheck := s.time, calm := 0, clks := p.clks - 1, cap := p.clks - 1 }) ∧
        (p.clks ≤ 16 → p.limited = false → leads (.powerCheck mw hot) { p with lastCheck := s.time, calm := 0, limited := true }) ∧
        (p.clks ≤ 16 → p.limited = true → leads (.powerCheck mw hot) { p with lastCheck := s.time, calm := 0, rate := min 3 (p.rate + 1) })) ∧
      (mw ≤ 2400000 → hot ≤ 105 →
        let calm := if mw < 2300000 ∧ hot < 100 then p.calm + ((s.time : Int) - p.lastCheck).toNat else 0
        leads (.powerCheck mw hot) (if 0 < p.rate then { p with lastCheck := s.time, calm := calm, limited := false, rate := p.rate - 1 }
          else if 1000000 ≤ calm ∧ p.cap < 32 then
            { p with lastCheck := s.time, calm := 0, limited := false, cap := p.cap + 1, clks := min (p.cap + 1) p.fwClks }
          else { p with lastCheck := s.time, calm := calm, limited := false })))

/-- R415, R419, R424, R425, R429, R430: the time base's lock, the lifetime counters and their records, the requests of firmware, and the
delivery of an illegal instruction word. -/
def PackageRecords : Prop :=
  ∀ (s : State) (v : Word) (ofs : Int) (t0 t1 : Nat) (fixes : List Nat),
    let p := s.pkg
    let leads (i : Instr) (q : Package) : Prop := exec i s = .next { s with pkg := q }
    (p.power = true → p.everReady = true →
      (32 < ofs.natAbs → leads (.syncMessage ofs) { p with tbofs := max (-32768) (min 32767 ofs), tblock := false, goodSyncs := 0 }) ∧
      (ofs.natAbs ≤ 32 → p.goodSyncs < 7 → leads (.syncMessage ofs) { p with tbofs := ofs, goodSyncs := p.goodSyncs + 1 }) ∧
      (ofs.natAbs ≤ 32 → p.goodSyncs = 7 → ∃ t, exec (.syncMessage ofs) s = .next t ∧ t.pkg.tblock = true)) ∧
    (p.power = false → leads (.syncMessage ofs) p) ∧
    (p.power = true → p.everReady = false → p.counted = false → ∃ t, exec (.syncMessage ofs) s = .next t ∧ t.time = ((s.time : Int) - ofs).toNat ∧
      t.pkg = { p with tbofs := max (-32768) (min 32767 ofs), counted := true, goodSyncs := 0, lastCheck := p.lastCheck - ofs, lastWrite := p.lastWrite - ofs }) ∧
    (leads .syncTimeout { p with tblock := false, goodSyncs := 0 }) ∧
    (p.power = true → tabWf 0 0 p.counters = true → ∃ q, leads (.powerOnSecond (t0, t1) fixes) q ∧
      (p.clks ∈ List.range' 16 17 → tget 0 p.counters 0 < 2 ^ 64 - 1 → tget 0 q.counters 0 = tget 0 p.counters 0 + 1) ∧
      (∀ n, p.clks ≤ 32 → fixes = [n] → Counter.isFix n = true → tget 0 p.counters n < 2 ^ 32 - 1 → tget 0 q.counters n = tget 0 p.counters n + 1)) ∧
    (p.power = true → 5 ≤ p.stage → p.writing = none → p.shutting = false →
      ((s.time : Int) < p.lastWrite + 600000000000 → leads .recordWrite p) ∧
      (p.lastWrite + 600000000000 ≤ (s.time : Int) → ∃ q r, leads .recordWrite q ∧ q.pers = true ∧ q.writing = some r ∧ r.counters = p.counters ∧
        r.orderly = false ∧ r.digest = r.sum ∧ (q.slotA.verifies = false ∨ q.slotB.verifies = false))) ∧
    (s.linkUp = true → bit v 11 = true → p.shutting = false → p.writing = none → ∃ q r, leads (.shut v) q ∧ q.shutting = true ∧ q.writing = some r ∧
      r.orderly = true) ∧
    (∀ r, p.writing = some r →
      (r.orderly = true → ∃ q, leads .recordWriteDone q ∧ q.ready = false ∧ q.pers = false ∧ (q.slotA = r ∨ q.slotB = r)) ∧
      (r.orderly = false → p.shutting = false → ∃ q, leads .recordWriteDone q ∧ q.ready = p.ready ∧ q.writing = none ∧ (q.slotA = r ∨ q.slotB = r))) ∧
    (p.power = true →
      (∀ u, 16 ≤ u → u ≤ 32 → leads (.firmwareRequest (.clock u)) { p with fwClks := u, clks := min p.cap u }) ∧
      (∀ u, 32 < u → leads (.firmwareRequest (.clock u)) { p.count (Counter.clamp 2) with fwClks := 32, clks := min p.cap 32 }) ∧
      (∀ m, m ≤ 950 → leads (.firmwareRequest (.voltage m)) { p with fwVolt := m }) ∧
      (∀ m, 4 < m → leads (.firmwareRequest (.laser m)) { p.count (Counter.clamp 3) with fwLaser := 4 }) ∧
      (∀ m, 2400000 < m → leads (.firmwareRequest (.power m)) { p.count (Counter.clamp 0) with fwPower := 2400000 }) ∧
      (∀ c, 105 < c → leads (.firmwareRequest (.throttle c)) { p.count (Counter.clamp 1) with fwTemp := 105 }) ∧
      (∀ n, leads (.firmwareRequest (.injection n)) (if 1024 < n then { p.count (Counter.clamp 4) with fwInject := 1024 } else { p with fwInject := n })) ∧
      leads (.firmwareRequest .silence) (p.count (Counter.clamp 6)) ∧ leads (.firmwareRequest .deviceKey) (p.count (Counter.clamp 7)) ∧
      (∀ config data, 4 ≤ p.stage → leads (.firmwareRequest (.measure config data)) (p.extend (if config = true then 3 else 2) data))) ∧
    (∀ l : Line, Issues s l → s.unconfirmed l.ref = false →
      exec (.illegalInstruction v) s = .next (s.trapEntry l { cls := if fld v 26 6 = 0x3E ∧ l.pl = false then 0x02 else 0x01 } l.pc 0 l.pc v 0))

/-- Bring-up, power, the time base, the lifetime records and firmware requests.
Bring-up's arguments, power and temperature, the lock at reset, the flash slots, the layout of a record's digest and how corrections come to be
counted are the model's choices (assumptions 20, 21, 25, 48, 49 and 99); the digest is presumed to be SHAKE256 as it is published (assumption 7). -/
def Obligations.PackageLife : Prop := PackageSteps ∧ PackageRecords

/-! ## Words, steps and the whole machine (08_encoding_and_assembly.md, 02_execution_model.md) -/

/-- R60, R200 to R210, R313, R369: words written out from the encoding tables, and what they stand for; R203, R201: words that are no
instruction. -/
def Obligations.WordsDecodeAsEncoded : Prop :=
  decodeWord 0x04010830 = .ok (.add (.r 1) (.x 2) (.x 3)) ∧
  decodeWord 0x04050A36 = .ok (.add (.r 5) (.k 2) (.peek 3)) ∧
  decodeWord 0x2C10BFFF = .ok (.addi (.r 1) (.r 2) 0x3FFF) ∧
  decodeWord 0x3C312005 = .ok (.srai (.r 3) (.r 4) 5) ∧
  decodeWord 0x51841460 = .ok (.lds .take .w false (.r 4) (.r 5) (.r 6)) ∧
  decodeWord 0x66872092 = .ok (.stg (some .dev) .w (.r 7) (.r 8) (.r 9)) ∧
  decodeWord 0x71C10833 = .ok (.ats .cas .acqrel (.r 1) (.r 2) (.r 3)) ∧
  decodeWord 0x88000C40 = .ok (.barinit false (.r 3) (.r 4)) ∧
  decodeWord 0xA57FFFFF = .ok (.br 2 true 0x3FFFFF) ∧
  decodeWord 0xA9800000 = .ok .nop ∧
  decodeWord 0xF8040800 = .ok (.prd (.r 4) (.r 2)) ∧
  decodeWord 0xF9040810 = .ok (.lresume (.r 4) (.r 2) 1) ∧
  decodeWord 0x00000000 = .error .unassignedMajor ∧
  decodeWord 0xA9800001 = .error .mustBeZero

/-- R60 to R62, R200 to R210: a word decodes to an instruction exactly when that instruction is well formed and the word is its
encoding: no bit of a word is dropped, and every operand takes every value that its field admits. -/
def Obligations.DecodeInvertsEncode : Prop :=
  ∀ (i : Instr) (w : Word), decodeWord w = .ok i ↔ i.wf = true ∧ encode i = some w

/-- R33 to R36, R47, R51, R145, R150, R179, R211: what a step does with the head of the schedule, once its ticks have passed. An issue of a lane runs
the instruction that the word at the pc of the line it picks decodes to, for the threads that the schedule grants it, and then keeps the lane's
account; a word that is no instruction runs as the illegal-instruction fault; a step of an engine or of an outside agent runs as itself; in
the same tick the step settles (watched words are read again, R391). In one cycle the requests come in ascending order of their requesters: every
step of a new cycle happens, and a line's request that would come behind one of the drain path, a copy queue, the host link or a network unit does not.
That steps follow one schedule is the model's choice (assumptions 1, 2 and 56), and so is how entries of it share a cycle (assumption 83); the step of
its own for a fetch is its reading (assumption 11). -/
def Obligations.StepRunsTheDecodedInstruction : Prop :=
  ∀ (s : State) (e : Sched) (rest : List Sched), s.schedule = e :: rest →
    let t := s.begin e rest
    (e.same = false ∨ 0 < e.ticks → (t.inOrder e.act).isSome = true) ∧
    (∀ a r j n q, e.act = .event (.slicePerform a.id) → t.flight.find? (fun b => decide (b.id = a.id)) = some a → a.issuer = .line r j →
      t.inCycle = n :: q → 2 ≤ n → t.inOrder e.act = none) ∧
    (t.inOrder e.act = none → step s = .next (s.settle t)) ∧
    ∀ u, t.inOrder e.act = some u →
      (∀ core lane l others m, e.act = .issue core lane →
        let v := u.betweenBlocks core lane
        v.pick core lane = some (l, others) → (v.prepare l).line l.ref = some m →
        Issues (v.prepare l) m ∧ (v.prepare l).codeVa m % 4 = 0 ∧
        ∀ c ∈ v.icache.find? (fun (c : ICLine) => decide (c.core = m.core) && decide (c.part = m.part) && decide (c.va = (v.prepare l).codeVa m / 128)),
          let bytes := (c.bytes.drop ((v.prepare l).codeVa m % 128)).take 4
          let runs (i : Instr) : Prop := step s = mapNext (fun u => s.settle (u.noteIssue i m others)) (exec i (v.prepare l))
          (∀ i, decode bytes = .ok (i, []) → i.wf = true ∧ runs i) ∧
          (∀ err, bytes.length = 4 → decode bytes = .error err → runs (.illegalInstruction (BitVec.ofNat 32 (leNat bytes))))) ∧
      (∀ core lane, e.act = .issue core lane → (u.betweenBlocks core lane).pick core lane = none →
        step s = .next (s.settle ((u.betweenBlocks core lane).noneChosen core lane))) ∧
      (∀ i, e.act = .event i → i.isWord = false → (∀ w, i ≠ .illegalInstruction w) → step s = mapNext s.settle (exec i u))

/-- R203, R211: no step stops the machine. Every instruction word, the fault of a word that is none, and every step of an engine or of
an outside agent answers a next state; the one stop is an instruction word when no line issues, which no step reaches.
That an instruction word with no issuing line stops is the model's choice (assumption 2). -/
def Obligations.EveryStepGoesOn : Prop :=
  (∀ s : State, Completes (step s)) ∧
  (∀ (i : Instr) (s : State) (l : Line), Issues s l → Completes (exec i s)) ∧
  (∀ (i : Instr) (s : State), i.isWord = false → (∀ w, i ≠ .illegalInstruction w) → Completes (exec i s)) ∧
  (∀ (i : Instr) (s : State), i.isWord = true → s.cur = none → exec i s = .fault .noIssuingLine)

/-- The scratchpad window of every set, on its core or in a saved image, is in the canonical form of memory. -/
abbrev windowsWf (s : State) : Prop :=
  (∀ c ∈ s.sets, Memory.wf c.spad = true) ∧ ∀ g ∈ s.grids, ∀ im ∈ g.images, Memory.wf im.set.spad = true

/-- R148, R166, R168: every step, whatever the schedule says, keeps the canonical form of device memory, of host memory and of every
scratchpad window, so that equal memories are equal data.
The canonical form, and that an unlisted byte reads 0, are the model's choices (assumptions 6 and 57). -/
def Obligations.EveryStepKeepsTheMemoryForm : Prop :=
  ∀ s t : State, step s = .next t → (s.memWf → t.memWf) ∧ (windowsWf s → windowsWf t)

/-- R362, R366, R412: what no instruction word changes. The package's registers, the queues, the time base and the registers of every
other partition stay; at user level the registers of the line's own partition stay too, but for what taking a fault counts: the SEQ of
a handle (R372) and TFCNT (R408). -/
def Obligations.WordsLeavePrivilegedStateAlone : Prop :=
  ∀ (i : Instr) (s t : State) (l : Line), i.isWord = true → Issues s l → exec i s = .next t →
    t.pkg = s.pkg ∧ t.queues = s.queues ∧ t.time = s.time ∧ (∀ p, p ≠ l.part → t.part p = s.part p) ∧
    (l.pl = false → ∃ n c, t.part l.part = { s.part l.part with seqs := n, tfcnt := c })

/-- R366, R386, R402, R412, R420, R421: what reset leaves. Power is off and no step of bring-up is done; partition 0 owns every core, the
ports and the memory, and the others own nothing; the registers have their Reset values; no line is resident; memory lists nothing.
Power off at device reset, memory of zeros, the ports' link state and the values that no rule gives are the model's choices (assumptions 4, 5, 20, 57 and
58). -/
def Obligations.ResetLeavesTheResetValues : Prop :=
  let s := State.reset
  (s.pkg.stage = 0 ∧ s.pkg.ready = false ∧ s.pkg.clks = 32 ∧ s.pkg.domid = 0 ∧ s.pkg.didv = false ∧ s.pkg.tbofs = 0) ∧
  (s.lines = [] ∧ s.sets = [] ∧ s.grids = [] ∧ s.memWf ∧ windowsWf s ∧ ∀ a, readByte s.dev a = 0) ∧
  ((s.part 0).pen = true ∧ (∀ n < 160, (s.part 0).cores.getD (n / 32) 0 |>.getLsbD (n % 32)) ∧ (s.part 0).pport = 0xFFFF ∧
    (∀ ca < 384 * 2 ^ 30, (s.part 0).owns ca = true) ∧
    ∀ p, 1 ≤ p → p < 8 → (s.part p).pen = false ∧ (s.part p).cores = Vector.replicate 5 0 ∧ (s.part p).pport = 0 ∧ ∀ ca, (s.part p).owns ca = false) ∧
  (∀ p < 8, s.privRead p 0x0020 = some 1024 ∧ s.privRead p 0x0021 = some 16384 ∧ s.privRead p 0x0022 = some 4 ∧ s.privRead p 0x0023 = some 16 ∧
    s.privRead p 0x0024 = some 0x111 ∧ s.privRead p 0x0010 = some 0 ∧ s.privRead p 0x0016 = some 0 ∧ (s.part p).age = 0x186A0 ∧
    (s.part p).mrs = Vector.replicate 4 (List.replicate 64 0) ∧ bit (s.part p).grlo 0 = false ∧ bit (s.part p).prlo 0 = false) ∧
  (∀ q < 1024, (s.queue q).qsz = 4 ∧ (s.queue q).pmax = 7 ∧ (s.queue q).head = 0 ∧ (s.queue q).tail = 0 ∧ (s.queue q).err = false) ∧
  ∀ n : Fin 16, (s.port n).packet = false ∧ (s.port n).locked = false ∧ (s.port n).fseq = 0
end

