-- ==== Sys2Proof/Laws/State.lean ====
section
/-!
SUPPORT. What each update of the state leaves: one lemma for each field and each update of one component, true by definition.
-/
namespace Sys2Proof.Machine


@[simp] theorem State.setLine_time (s : State) (l : Line) : (s.setLine l).time = s.time := rfl
@[simp] theorem State.setLine_schedule (s : State) (l : Line) : (s.setLine l).schedule = s.schedule := rfl
@[simp] theorem State.setLine_cur (s : State) (l : Line) : (s.setLine l).cur = s.cur := rfl
@[simp] theorem State.setLine_quantum (s : State) (l : Line) : (s.setLine l).quantum = s.quantum := rfl
@[simp] theorem State.setLine_inCycle (s : State) (l : Line) : (s.setLine l).inCycle = s.inCycle := rfl
@[simp] theorem State.setLine_freeCtr (s : State) (l : Line) : (s.setLine l).freeCtr = s.freeCtr := rfl
@[simp] theorem State.setLine_nextId (s : State) (l : Line) : (s.setLine l).nextId = s.nextId := rfl
@[simp] theorem State.setLine_lanes (s : State) (l : Line) : (s.setLine l).lanes = s.lanes := rfl
@[simp] theorem State.setLine_sets (s : State) (l : Line) : (s.setLine l).sets = s.sets := rfl
@[simp] theorem State.setLine_grids (s : State) (l : Line) : (s.setLine l).grids = s.grids := rfl
@[simp] theorem State.setLine_dev (s : State) (l : Line) : (s.setLine l).dev = s.dev := rfl
@[simp] theorem State.setLine_hostMem (s : State) (l : Line) : (s.setLine l).hostMem = s.hostMem := rfl
@[simp] theorem State.setLine_badDev (s : State) (l : Line) : (s.setLine l).badDev = s.badDev := rfl
@[simp] theorem State.setLine_l1 (s : State) (l : Line) : (s.setLine l).l1 = s.l1 := rfl
@[simp] theorem State.setLine_l2 (s : State) (l : Line) : (s.setLine l).l2 = s.l2 := rfl
@[simp] theorem State.setLine_horizon (s : State) (l : Line) : (s.setLine l).horizon = s.horizon := rfl
@[simp] theorem State.setLine_icache (s : State) (l : Line) : (s.setLine l).icache = s.icache := rfl
@[simp] theorem State.setLine_flight (s : State) (l : Line) : (s.setLine l).flight = s.flight := rfl
@[simp] theorem State.setLine_bankQ (s : State) (l : Line) : (s.setLine l).bankQ = s.bankQ := rfl
@[simp] theorem State.setLine_waitQ (s : State) (l : Line) : (s.setLine l).waitQ = s.waitQ := rfl
@[simp] theorem State.setLine_tlb (s : State) (l : Line) : (s.setLine l).tlb = s.tlb := rfl
@[simp] theorem State.setLine_walks (s : State) (l : Line) : (s.setLine l).walks = s.walks := rfl
@[simp] theorem State.setLine_faultTab (s : State) (l : Line) : (s.setLine l).faultTab = s.faultTab := rfl
@[simp] theorem State.setLine_copyQ (s : State) (l : Line) : (s.setLine l).copyQ = s.copyQ := rfl
@[simp] theorem State.setLine_drainQ (s : State) (l : Line) : (s.setLine l).drainQ = s.drainQ := rfl
@[simp] theorem State.setLine_matQ (s : State) (l : Line) : (s.setLine l).matQ = s.matQ := rfl
@[simp] theorem State.setLine_runs (s : State) (l : Line) : (s.setLine l).runs = s.runs := rfl
@[simp] theorem State.setLine_loads (s : State) (l : Line) : (s.setLine l).loads = s.loads := rfl
@[simp] theorem State.setLine_fab (s : State) (l : Line) : (s.setLine l).fab = s.fab := rfl
@[simp] theorem State.setLine_parts (s : State) (l : Line) : (s.setLine l).parts = s.parts := rfl
@[simp] theorem State.setLine_queues (s : State) (l : Line) : (s.setLine l).queues = s.queues := rfl
@[simp] theorem State.setLine_postedG (s : State) (l : Line) : (s.setLine l).postedG = s.postedG := rfl
@[simp] theorem State.setLine_postedT (s : State) (l : Line) : (s.setLine l).postedT = s.postedT := rfl
@[simp] theorem State.setLine_cxlG (s : State) (l : Line) : (s.setLine l).cxlG = s.cxlG := rfl
@[simp] theorem State.setLine_cxlWait (s : State) (l : Line) : (s.setLine l).cxlWait = s.cxlWait := rfl
@[simp] theorem State.setLine_cxlDone (s : State) (l : Line) : (s.setLine l).cxlDone = s.cxlDone := rfl
@[simp] theorem State.setLine_hits (s : State) (l : Line) : (s.setLine l).hits = s.hits := rfl
@[simp] theorem State.setLine_sysRecs (s : State) (l : Line) : (s.setLine l).sysRecs = s.sysRecs := rfl
@[simp] theorem State.setLine_hostRead (s : State) (l : Line) : (s.setLine l).hostRead = s.hostRead := rfl
@[simp] theorem State.setLine_lastPlace (s : State) (l : Line) : (s.setLine l).lastPlace = s.lastPlace := rfl
@[simp] theorem State.setLine_pkg (s : State) (l : Line) : (s.setLine l).pkg = s.pkg := rfl

@[simp] theorem State.updLine_time (s : State) (r : LineRef) (f : Line → Line) : (s.updLine r f).time = s.time := rfl
@[simp] theorem State.updLine_schedule (s : State) (r : LineRef) (f : Line → Line) : (s.updLine r f).schedule = s.schedule := rfl
@[simp] theorem State.updLine_cur (s : State) (r : LineRef) (f : Line → Line) : (s.updLine r f).cur = s.cur := rfl
@[simp] theorem State.updLine_quantum (s : State) (r : LineRef) (f : Line → Line) : (s.updLine r f).quantum = s.quantum := rfl
@[simp] theorem State.updLine_inCycle (s : State) (r : LineRef) (f : Line → Line) : (s.updLine r f).inCycle = s.inCycle := rfl
@[simp] theorem State.updLine_freeCtr (s : State) (r : LineRef) (f : Line → Line) : (s.updLine r f).freeCtr = s.freeCtr := rfl
@[simp] theorem State.updLine_nextId (s : State) (r : LineRef) (f : Line → Line) : (s.updLine r f).nextId = s.nextId := rfl
@[simp] theorem State.updLine_lanes (s : State) (r : LineRef) (f : Line → Line) : (s.updLine r f).lanes = s.lanes := rfl
@[simp] theorem State.updLine_sets (s : State) (r : LineRef) (f : Line → Line) : (s.updLine r f).sets = s.sets := rfl
@[simp] theorem State.updLine_grids (s : State) (r : LineRef) (f : Line → Line) : (s.updLine r f).grids = s.grids := rfl
@[simp] theorem State.updLine_dev (s : State) (r : LineRef) (f : Line → Line) : (s.updLine r f).dev = s.dev := rfl
@[simp] theorem State.updLine_hostMem (s : State) (r : LineRef) (f : Line → Line) : (s.updLine r f).hostMem = s.hostMem := rfl
@[simp] theorem State.updLine_badDev (s : State) (r : LineRef) (f : Line → Line) : (s.updLine r f).badDev = s.badDev := rfl
@[simp] theorem State.updLine_l1 (s : State) (r : LineRef) (f : Line → Line) : (s.updLine r f).l1 = s.l1 := rfl
@[simp] theorem State.updLine_l2 (s : State) (r : LineRef) (f : Line → Line) : (s.updLine r f).l2 = s.l2 := rfl
@[simp] theorem State.updLine_horizon (s : State) (r : LineRef) (f : Line → Line) : (s.updLine r f).horizon = s.horizon := rfl
@[simp] theorem State.updLine_icache (s : State) (r : LineRef) (f : Line → Line) : (s.updLine r f).icache = s.icache := rfl
@[simp] theorem State.updLine_flight (s : State) (r : LineRef) (f : Line → Line) : (s.updLine r f).flight = s.flight := rfl
@[simp] theorem State.updLine_bankQ (s : State) (r : LineRef) (f : Line → Line) : (s.updLine r f).bankQ = s.bankQ := rfl
@[simp] theorem State.updLine_waitQ (s : State) (r : LineRef) (f : Line → Line) : (s.updLine r f).waitQ = s.waitQ := rfl
@[simp] theorem State.updLine_tlb (s : State) (r : LineRef) (f : Line → Line) : (s.updLine r f).tlb = s.tlb := rfl
@[simp] theorem State.updLine_walks (s : State) (r : LineRef) (f : Line → Line) : (s.updLine r f).walks = s.walks := rfl
@[simp] theorem State.updLine_faultTab (s : State) (r : LineRef) (f : Line → Line) : (s.updLine r f).faultTab = s.faultTab := rfl
@[simp] theorem State.updLine_copyQ (s : State) (r : LineRef) (f : Line → Line) : (s.updLine r f).copyQ = s.copyQ := rfl
@[simp] theorem State.updLine_drainQ (s : State) (r : LineRef) (f : Line → Line) : (s.updLine r f).drainQ = s.drainQ := rfl
@[simp] theorem State.updLine_matQ (s : State) (r : LineRef) (f : Line → Line) : (s.updLine r f).matQ = s.matQ := rfl
@[simp] theorem State.updLine_runs (s : State) (r : LineRef) (f : Line → Line) : (s.updLine r f).runs = s.runs := rfl
@[simp] theorem State.updLine_loads (s : State) (r : LineRef) (f : Line → Line) : (s.updLine r f).loads = s.loads := rfl
@[simp] theorem State.updLine_fab (s : State) (r : LineRef) (f : Line → Line) : (s.updLine r f).fab = s.fab := rfl
@[simp] theorem State.updLine_parts (s : State) (r : LineRef) (f : Line → Line) : (s.updLine r f).parts = s.parts := rfl
@[simp] theorem State.updLine_queues (s : State) (r : LineRef) (f : Line → Line) : (s.updLine r f).queues = s.queues := rfl
@[simp] theorem State.updLine_postedG (s : State) (r : LineRef) (f : Line → Line) : (s.updLine r f).postedG = s.postedG := rfl
@[simp] theorem State.updLine_postedT (s : State) (r : LineRef) (f : Line → Line) : (s.updLine r f).postedT = s.postedT := rfl
@[simp] theorem State.updLine_cxlG (s : State) (r : LineRef) (f : Line → Line) : (s.updLine r f).cxlG = s.cxlG := rfl
@[simp] theorem State.updLine_cxlWait (s : State) (r : LineRef) (f : Line → Line) : (s.updLine r f).cxlWait = s.cxlWait := rfl
@[simp] theorem State.updLine_cxlDone (s : State) (r : LineRef) (f : Line → Line) : (s.updLine r f).cxlDone = s.cxlDone := rfl
@[simp] theorem State.updLine_hits (s : State) (r : LineRef) (f : Line → Line) : (s.updLine r f).hits = s.hits := rfl
@[simp] theorem State.updLine_sysRecs (s : State) (r : LineRef) (f : Line → Line) : (s.updLine r f).sysRecs = s.sysRecs := rfl
@[simp] theorem State.updLine_hostRead (s : State) (r : LineRef) (f : Line → Line) : (s.updLine r f).hostRead = s.hostRead := rfl
@[simp] theorem State.updLine_lastPlace (s : State) (r : LineRef) (f : Line → Line) : (s.updLine r f).lastPlace = s.lastPlace := rfl
@[simp] theorem State.updLine_pkg (s : State) (r : LineRef) (f : Line → Line) : (s.updLine r f).pkg = s.pkg := rfl

@[simp] theorem State.updSet_time (s : State) (r : SetRef) (f : CSet → CSet) : (s.updSet r f).time = s.time := rfl
@[simp] theorem State.updSet_schedule (s : State) (r : SetRef) (f : CSet → CSet) : (s.updSet r f).schedule = s.schedule := rfl
@[simp] theorem State.updSet_cur (s : State) (r : SetRef) (f : CSet → CSet) : (s.updSet r f).cur = s.cur := rfl
@[simp] theorem State.updSet_quantum (s : State) (r : SetRef) (f : CSet → CSet) : (s.updSet r f).quantum = s.quantum := rfl
@[simp] theorem State.updSet_inCycle (s : State) (r : SetRef) (f : CSet → CSet) : (s.updSet r f).inCycle = s.inCycle := rfl
@[simp] theorem State.updSet_freeCtr (s : State) (r : SetRef) (f : CSet → CSet) : (s.updSet r f).freeCtr = s.freeCtr := rfl
@[simp] theorem State.updSet_nextId (s : State) (r : SetRef) (f : CSet → CSet) : (s.updSet r f).nextId = s.nextId := rfl
@[simp] theorem State.updSet_lanes (s : State) (r : SetRef) (f : CSet → CSet) : (s.updSet r f).lanes = s.lanes := rfl
@[simp] theorem State.updSet_lines (s : State) (r : SetRef) (f : CSet → CSet) : (s.updSet r f).lines = s.lines := rfl
@[simp] theorem State.updSet_grids (s : State) (r : SetRef) (f : CSet → CSet) : (s.updSet r f).grids = s.grids := rfl
@[simp] theorem State.updSet_dev (s : State) (r : SetRef) (f : CSet → CSet) : (s.updSet r f).dev = s.dev := rfl
@[simp] theorem State.updSet_hostMem (s : State) (r : SetRef) (f : CSet → CSet) : (s.updSet r f).hostMem = s.hostMem := rfl
@[simp] theorem State.updSet_badDev (s : State) (r : SetRef) (f : CSet → CSet) : (s.updSet r f).badDev = s.badDev := rfl
@[simp] theorem State.updSet_l1 (s : State) (r : SetRef) (f : CSet → CSet) : (s.updSet r f).l1 = s.l1 := rfl
@[simp] theorem State.updSet_l2 (s : State) (r : SetRef) (f : CSet → CSet) : (s.updSet r f).l2 = s.l2 := rfl
@[simp] theorem State.updSet_horizon (s : State) (r : SetRef) (f : CSet → CSet) : (s.updSet r f).horizon = s.horizon := rfl
@[simp] theorem State.updSet_icache (s : State) (r : SetRef) (f : CSet → CSet) : (s.updSet r f).icache = s.icache := rfl
@[simp] theorem State.updSet_flight (s : State) (r : SetRef) (f : CSet → CSet) : (s.updSet r f).flight = s.flight := rfl
@[simp] theorem State.updSet_bankQ (s : State) (r : SetRef) (f : CSet → CSet) : (s.updSet r f).bankQ = s.bankQ := rfl
@[simp] theorem State.updSet_waitQ (s : State) (r : SetRef) (f : CSet → CSet) : (s.updSet r f).waitQ = s.waitQ := rfl
@[simp] theorem State.updSet_tlb (s : State) (r : SetRef) (f : CSet → CSet) : (s.updSet r f).tlb = s.tlb := rfl
@[simp] theorem State.updSet_walks (s : State) (r : SetRef) (f : CSet → CSet) : (s.updSet r f).walks = s.walks := rfl
@[simp] theorem State.updSet_faultTab (s : State) (r : SetRef) (f : CSet → CSet) : (s.updSet r f).faultTab = s.faultTab := rfl
@[simp] theorem State.updSet_copyQ (s : State) (r : SetRef) (f : CSet → CSet) : (s.updSet r f).copyQ = s.copyQ := rfl
@[simp] theorem State.updSet_drainQ (s : State) (r : SetRef) (f : CSet → CSet) : (s.updSet r f).drainQ = s.drainQ := rfl
@[simp] theorem State.updSet_matQ (s : State) (r : SetRef) (f : CSet → CSet) : (s.updSet r f).matQ = s.matQ := rfl
@[simp] theorem State.updSet_runs (s : State) (r : SetRef) (f : CSet → CSet) : (s.updSet r f).runs = s.runs := rfl
@[simp] theorem State.updSet_loads (s : State) (r : SetRef) (f : CSet → CSet) : (s.updSet r f).loads = s.loads := rfl
@[simp] theorem State.updSet_fab (s : State) (r : SetRef) (f : CSet → CSet) : (s.updSet r f).fab = s.fab := rfl
@[simp] theorem State.updSet_parts (s : State) (r : SetRef) (f : CSet → CSet) : (s.updSet r f).parts = s.parts := rfl
@[simp] theorem State.updSet_queues (s : State) (r : SetRef) (f : CSet → CSet) : (s.updSet r f).queues = s.queues := rfl
@[simp] theorem State.updSet_postedG (s : State) (r : SetRef) (f : CSet → CSet) : (s.updSet r f).postedG = s.postedG := rfl
@[simp] theorem State.updSet_postedT (s : State) (r : SetRef) (f : CSet → CSet) : (s.updSet r f).postedT = s.postedT := rfl
@[simp] theorem State.updSet_cxlG (s : State) (r : SetRef) (f : CSet → CSet) : (s.updSet r f).cxlG = s.cxlG := rfl
@[simp] theorem State.updSet_cxlWait (s : State) (r : SetRef) (f : CSet → CSet) : (s.updSet r f).cxlWait = s.cxlWait := rfl
@[simp] theorem State.updSet_cxlDone (s : State) (r : SetRef) (f : CSet → CSet) : (s.updSet r f).cxlDone = s.cxlDone := rfl
@[simp] theorem State.updSet_hits (s : State) (r : SetRef) (f : CSet → CSet) : (s.updSet r f).hits = s.hits := rfl
@[simp] theorem State.updSet_sysRecs (s : State) (r : SetRef) (f : CSet → CSet) : (s.updSet r f).sysRecs = s.sysRecs := rfl
@[simp] theorem State.updSet_hostRead (s : State) (r : SetRef) (f : CSet → CSet) : (s.updSet r f).hostRead = s.hostRead := rfl
@[simp] theorem State.updSet_lastPlace (s : State) (r : SetRef) (f : CSet → CSet) : (s.updSet r f).lastPlace = s.lastPlace := rfl
@[simp] theorem State.updSet_pkg (s : State) (r : SetRef) (f : CSet → CSet) : (s.updSet r f).pkg = s.pkg := rfl

@[simp] theorem State.updGrid_time (s : State) (g : Nat) (f : Grid → Grid) : (s.updGrid g f).time = s.time := rfl
@[simp] theorem State.updGrid_schedule (s : State) (g : Nat) (f : Grid → Grid) : (s.updGrid g f).schedule = s.schedule := rfl
@[simp] theorem State.updGrid_cur (s : State) (g : Nat) (f : Grid → Grid) : (s.updGrid g f).cur = s.cur := rfl
@[simp] theorem State.updGrid_quantum (s : State) (g : Nat) (f : Grid → Grid) : (s.updGrid g f).quantum = s.quantum := rfl
@[simp] theorem State.updGrid_inCycle (s : State) (g : Nat) (f : Grid → Grid) : (s.updGrid g f).inCycle = s.inCycle := rfl
@[simp] theorem State.updGrid_freeCtr (s : State) (g : Nat) (f : Grid → Grid) : (s.updGrid g f).freeCtr = s.freeCtr := rfl
@[simp] theorem State.updGrid_nextId (s : State) (g : Nat) (f : Grid → Grid) : (s.updGrid g f).nextId = s.nextId := rfl
@[simp] theorem State.updGrid_lanes (s : State) (g : Nat) (f : Grid → Grid) : (s.updGrid g f).lanes = s.lanes := rfl
@[simp] theorem State.updGrid_lines (s : State) (g : Nat) (f : Grid → Grid) : (s.updGrid g f).lines = s.lines := rfl
@[simp] theorem State.updGrid_sets (s : State) (g : Nat) (f : Grid → Grid) : (s.updGrid g f).sets = s.sets := rfl
@[simp] theorem State.updGrid_dev (s : State) (g : Nat) (f : Grid → Grid) : (s.updGrid g f).dev = s.dev := rfl
@[simp] theorem State.updGrid_hostMem (s : State) (g : Nat) (f : Grid → Grid) : (s.updGrid g f).hostMem = s.hostMem := rfl
@[simp] theorem State.updGrid_badDev (s : State) (g : Nat) (f : Grid → Grid) : (s.updGrid g f).badDev = s.badDev := rfl
@[simp] theorem State.updGrid_l1 (s : State) (g : Nat) (f : Grid → Grid) : (s.updGrid g f).l1 = s.l1 := rfl
@[simp] theorem State.updGrid_l2 (s : State) (g : Nat) (f : Grid → Grid) : (s.updGrid g f).l2 = s.l2 := rfl
@[simp] theorem State.updGrid_horizon (s : State) (g : Nat) (f : Grid → Grid) : (s.updGrid g f).horizon = s.horizon := rfl
@[simp] theorem State.updGrid_icache (s : State) (g : Nat) (f : Grid → Grid) : (s.updGrid g f).icache = s.icache := rfl
@[simp] theorem State.updGrid_flight (s : State) (g : Nat) (f : Grid → Grid) : (s.updGrid g f).flight = s.flight := rfl
@[simp] theorem State.updGrid_bankQ (s : State) (g : Nat) (f : Grid → Grid) : (s.updGrid g f).bankQ = s.bankQ := rfl
@[simp] theorem State.updGrid_waitQ (s : State) (g : Nat) (f : Grid → Grid) : (s.updGrid g f).waitQ = s.waitQ := rfl
@[simp] theorem State.updGrid_tlb (s : State) (g : Nat) (f : Grid → Grid) : (s.updGrid g f).tlb = s.tlb := rfl
@[simp] theorem State.updGrid_walks (s : State) (g : Nat) (f : Grid → Grid) : (s.updGrid g f).walks = s.walks := rfl
@[simp] theorem State.updGrid_faultTab (s : State) (g : Nat) (f : Grid → Grid) : (s.updGrid g f).faultTab = s.faultTab := rfl
@[simp] theorem State.updGrid_copyQ (s : State) (g : Nat) (f : Grid → Grid) : (s.updGrid g f).copyQ = s.copyQ := rfl
@[simp] theorem State.updGrid_drainQ (s : State) (g : Nat) (f : Grid → Grid) : (s.updGrid g f).drainQ = s.drainQ := rfl
@[simp] theorem State.updGrid_matQ (s : State) (g : Nat) (f : Grid → Grid) : (s.updGrid g f).matQ = s.matQ := rfl
@[simp] theorem State.updGrid_runs (s : State) (g : Nat) (f : Grid → Grid) : (s.updGrid g f).runs = s.runs := rfl
@[simp] theorem State.updGrid_loads (s : State) (g : Nat) (f : Grid → Grid) : (s.updGrid g f).loads = s.loads := rfl
@[simp] theorem State.updGrid_fab (s : State) (g : Nat) (f : Grid → Grid) : (s.updGrid g f).fab = s.fab := rfl
@[simp] theorem State.updGrid_parts (s : State) (g : Nat) (f : Grid → Grid) : (s.updGrid g f).parts = s.parts := rfl
@[simp] theorem State.updGrid_queues (s : State) (g : Nat) (f : Grid → Grid) : (s.updGrid g f).queues = s.queues := rfl
@[simp] theorem State.updGrid_postedG (s : State) (g : Nat) (f : Grid → Grid) : (s.updGrid g f).postedG = s.postedG := rfl
@[simp] theorem State.updGrid_postedT (s : State) (g : Nat) (f : Grid → Grid) : (s.updGrid g f).postedT = s.postedT := rfl
@[simp] theorem State.updGrid_cxlG (s : State) (g : Nat) (f : Grid → Grid) : (s.updGrid g f).cxlG = s.cxlG := rfl
@[simp] theorem State.updGrid_cxlWait (s : State) (g : Nat) (f : Grid → Grid) : (s.updGrid g f).cxlWait = s.cxlWait := rfl
@[simp] theorem State.updGrid_cxlDone (s : State) (g : Nat) (f : Grid → Grid) : (s.updGrid g f).cxlDone = s.cxlDone := rfl
@[simp] theorem State.updGrid_hits (s : State) (g : Nat) (f : Grid → Grid) : (s.updGrid g f).hits = s.hits := rfl
@[simp] theorem State.updGrid_sysRecs (s : State) (g : Nat) (f : Grid → Grid) : (s.updGrid g f).sysRecs = s.sysRecs := rfl
@[simp] theorem State.updGrid_hostRead (s : State) (g : Nat) (f : Grid → Grid) : (s.updGrid g f).hostRead = s.hostRead := rfl
@[simp] theorem State.updGrid_lastPlace (s : State) (g : Nat) (f : Grid → Grid) : (s.updGrid g f).lastPlace = s.lastPlace := rfl
@[simp] theorem State.updGrid_pkg (s : State) (g : Nat) (f : Grid → Grid) : (s.updGrid g f).pkg = s.pkg := rfl

@[simp] theorem State.updPart_time (s : State) (p : Nat) (f : Partition → Partition) : (s.updPart p f).time = s.time := rfl
@[simp] theorem State.updPart_schedule (s : State) (p : Nat) (f : Partition → Partition) : (s.updPart p f).schedule = s.schedule := rfl
@[simp] theorem State.updPart_cur (s : State) (p : Nat) (f : Partition → Partition) : (s.updPart p f).cur = s.cur := rfl
@[simp] theorem State.updPart_quantum (s : State) (p : Nat) (f : Partition → Partition) : (s.updPart p f).quantum = s.quantum := rfl
@[simp] theorem State.updPart_inCycle (s : State) (p : Nat) (f : Partition → Partition) : (s.updPart p f).inCycle = s.inCycle := rfl
@[simp] theorem State.updPart_freeCtr (s : State) (p : Nat) (f : Partition → Partition) : (s.updPart p f).freeCtr = s.freeCtr := rfl
@[simp] theorem State.updPart_nextId (s : State) (p : Nat) (f : Partition → Partition) : (s.updPart p f).nextId = s.nextId := rfl
@[simp] theorem State.updPart_lanes (s : State) (p : Nat) (f : Partition → Partition) : (s.updPart p f).lanes = s.lanes := rfl
@[simp] theorem State.updPart_lines (s : State) (p : Nat) (f : Partition → Partition) : (s.updPart p f).lines = s.lines := rfl
@[simp] theorem State.updPart_sets (s : State) (p : Nat) (f : Partition → Partition) : (s.updPart p f).sets = s.sets := rfl
@[simp] theorem State.updPart_grids (s : State) (p : Nat) (f : Partition → Partition) : (s.updPart p f).grids = s.grids := rfl
@[simp] theorem State.updPart_dev (s : State) (p : Nat) (f : Partition → Partition) : (s.updPart p f).dev = s.dev := rfl
@[simp] theorem State.updPart_hostMem (s : State) (p : Nat) (f : Partition → Partition) : (s.updPart p f).hostMem = s.hostMem := rfl
@[simp] theorem State.updPart_badDev (s : State) (p : Nat) (f : Partition → Partition) : (s.updPart p f).badDev = s.badDev := rfl
@[simp] theorem State.updPart_l1 (s : State) (p : Nat) (f : Partition → Partition) : (s.updPart p f).l1 = s.l1 := rfl
@[simp] theorem State.updPart_l2 (s : State) (p : Nat) (f : Partition → Partition) : (s.updPart p f).l2 = s.l2 := rfl
@[simp] theorem State.updPart_horizon (s : State) (p : Nat) (f : Partition → Partition) : (s.updPart p f).horizon = s.horizon := rfl
@[simp] theorem State.updPart_icache (s : State) (p : Nat) (f : Partition → Partition) : (s.updPart p f).icache = s.icache := rfl
@[simp] theorem State.updPart_flight (s : State) (p : Nat) (f : Partition → Partition) : (s.updPart p f).flight = s.flight := rfl
@[simp] theorem State.updPart_bankQ (s : State) (p : Nat) (f : Partition → Partition) : (s.updPart p f).bankQ = s.bankQ := rfl
@[simp] theorem State.updPart_waitQ (s : State) (p : Nat) (f : Partition → Partition) : (s.updPart p f).waitQ = s.waitQ := rfl
@[simp] theorem State.updPart_tlb (s : State) (p : Nat) (f : Partition → Partition) : (s.updPart p f).tlb = s.tlb := rfl
@[simp] theorem State.updPart_walks (s : State) (p : Nat) (f : Partition → Partition) : (s.updPart p f).walks = s.walks := rfl
@[simp] theorem State.updPart_faultTab (s : State) (p : Nat) (f : Partition → Partition) : (s.updPart p f).faultTab = s.faultTab := rfl
@[simp] theorem State.updPart_copyQ (s : State) (p : Nat) (f : Partition → Partition) : (s.updPart p f).copyQ = s.copyQ := rfl
@[simp] theorem State.updPart_drainQ (s : State) (p : Nat) (f : Partition → Partition) : (s.updPart p f).drainQ = s.drainQ := rfl
@[simp] theorem State.updPart_matQ (s : State) (p : Nat) (f : Partition → Partition) : (s.updPart p f).matQ = s.matQ := rfl
@[simp] theorem State.updPart_runs (s : State) (p : Nat) (f : Partition → Partition) : (s.updPart p f).runs = s.runs := rfl
@[simp] theorem State.updPart_loads (s : State) (p : Nat) (f : Partition → Partition) : (s.updPart p f).loads = s.loads := rfl
@[simp] theorem State.updPart_fab (s : State) (p : Nat) (f : Partition → Partition) : (s.updPart p f).fab = s.fab := rfl
@[simp] theorem State.updPart_queues (s : State) (p : Nat) (f : Partition → Partition) : (s.updPart p f).queues = s.queues := rfl
@[simp] theorem State.updPart_postedG (s : State) (p : Nat) (f : Partition → Partition) : (s.updPart p f).postedG = s.postedG := rfl
@[simp] theorem State.updPart_postedT (s : State) (p : Nat) (f : Partition → Partition) : (s.updPart p f).postedT = s.postedT := rfl
@[simp] theorem State.updPart_cxlG (s : State) (p : Nat) (f : Partition → Partition) : (s.updPart p f).cxlG = s.cxlG := rfl
@[simp] theorem State.updPart_cxlWait (s : State) (p : Nat) (f : Partition → Partition) : (s.updPart p f).cxlWait = s.cxlWait := rfl
@[simp] theorem State.updPart_cxlDone (s : State) (p : Nat) (f : Partition → Partition) : (s.updPart p f).cxlDone = s.cxlDone := rfl
@[simp] theorem State.updPart_hits (s : State) (p : Nat) (f : Partition → Partition) : (s.updPart p f).hits = s.hits := rfl
@[simp] theorem State.updPart_sysRecs (s : State) (p : Nat) (f : Partition → Partition) : (s.updPart p f).sysRecs = s.sysRecs := rfl
@[simp] theorem State.updPart_hostRead (s : State) (p : Nat) (f : Partition → Partition) : (s.updPart p f).hostRead = s.hostRead := rfl
@[simp] theorem State.updPart_lastPlace (s : State) (p : Nat) (f : Partition → Partition) : (s.updPart p f).lastPlace = s.lastPlace := rfl
@[simp] theorem State.updPart_pkg (s : State) (p : Nat) (f : Partition → Partition) : (s.updPart p f).pkg = s.pkg := rfl

@[simp] theorem State.setQueue_time (s : State) (q : Nat) (r : QueueRegs) : (s.setQueue q r).time = s.time := rfl
@[simp] theorem State.setQueue_schedule (s : State) (q : Nat) (r : QueueRegs) : (s.setQueue q r).schedule = s.schedule := rfl
@[simp] theorem State.setQueue_cur (s : State) (q : Nat) (r : QueueRegs) : (s.setQueue q r).cur = s.cur := rfl
@[simp] theorem State.setQueue_quantum (s : State) (q : Nat) (r : QueueRegs) : (s.setQueue q r).quantum = s.quantum := rfl
@[simp] theorem State.setQueue_inCycle (s : State) (q : Nat) (r : QueueRegs) : (s.setQueue q r).inCycle = s.inCycle := rfl
@[simp] theorem State.setQueue_freeCtr (s : State) (q : Nat) (r : QueueRegs) : (s.setQueue q r).freeCtr = s.freeCtr := rfl
@[simp] theorem State.setQueue_nextId (s : State) (q : Nat) (r : QueueRegs) : (s.setQueue q r).nextId = s.nextId := rfl
@[simp] theorem State.setQueue_lanes (s : State) (q : Nat) (r : QueueRegs) : (s.setQueue q r).lanes = s.lanes := rfl
@[simp] theorem State.setQueue_lines (s : State) (q : Nat) (r : QueueRegs) : (s.setQueue q r).lines = s.lines := rfl
@[simp] theorem State.setQueue_sets (s : State) (q : Nat) (r : QueueRegs) : (s.setQueue q r).sets = s.sets := rfl
@[simp] theorem State.setQueue_grids (s : State) (q : Nat) (r : QueueRegs) : (s.setQueue q r).grids = s.grids := rfl
@[simp] theorem State.setQueue_dev (s : State) (q : Nat) (r : QueueRegs) : (s.setQueue q r).dev = s.dev := rfl
@[simp] theorem State.setQueue_hostMem (s : State) (q : Nat) (r : QueueRegs) : (s.setQueue q r).hostMem = s.hostMem := rfl
@[simp] theorem State.setQueue_badDev (s : State) (q : Nat) (r : QueueRegs) : (s.setQueue q r).badDev = s.badDev := rfl
@[simp] theorem State.setQueue_l1 (s : State) (q : Nat) (r : QueueRegs) : (s.setQueue q r).l1 = s.l1 := rfl
@[simp] theorem State.setQueue_l2 (s : State) (q : Nat) (r : QueueRegs) : (s.setQueue q r).l2 = s.l2 := rfl
@[simp] theorem State.setQueue_horizon (s : State) (q : Nat) (r : QueueRegs) : (s.setQueue q r).horizon = s.horizon := rfl
@[simp] theorem State.setQueue_icache (s : State) (q : Nat) (r : QueueRegs) : (s.setQueue q r).icache = s.icache := rfl
@[simp] theorem State.setQueue_flight (s : State) (q : Nat) (r : QueueRegs) : (s.setQueue q r).flight = s.flight := rfl
@[simp] theorem State.setQueue_bankQ (s : State) (q : Nat) (r : QueueRegs) : (s.setQueue q r).bankQ = s.bankQ := rfl
@[simp] theorem State.setQueue_waitQ (s : State) (q : Nat) (r : QueueRegs) : (s.setQueue q r).waitQ = s.waitQ := rfl
@[simp] theorem State.setQueue_tlb (s : State) (q : Nat) (r : QueueRegs) : (s.setQueue q r).tlb = s.tlb := rfl
@[simp] theorem State.setQueue_walks (s : State) (q : Nat) (r : QueueRegs) : (s.setQueue q r).walks = s.walks := rfl
@[simp] theorem State.setQueue_faultTab (s : State) (q : Nat) (r : QueueRegs) : (s.setQueue q r).faultTab = s.faultTab := rfl
@[simp] theorem State.setQueue_copyQ (s : State) (q : Nat) (r : QueueRegs) : (s.setQueue q r).copyQ = s.copyQ := rfl
@[simp] theorem State.setQueue_drainQ (s : State) (q : Nat) (r : QueueRegs) : (s.setQueue q r).drainQ = s.drainQ := rfl
@[simp] theorem State.setQueue_matQ (s : State) (q : Nat) (r : QueueRegs) : (s.setQueue q r).matQ = s.matQ := rfl
@[simp] theorem State.setQueue_runs (s : State) (q : Nat) (r : QueueRegs) : (s.setQueue q r).runs = s.runs := rfl
@[simp] theorem State.setQueue_loads (s : State) (q : Nat) (r : QueueRegs) : (s.setQueue q r).loads = s.loads := rfl
@[simp] theorem State.setQueue_fab (s : State) (q : Nat) (r : QueueRegs) : (s.setQueue q r).fab = s.fab := rfl
@[simp] theorem State.setQueue_parts (s : State) (q : Nat) (r : QueueRegs) : (s.setQueue q r).parts = s.parts := rfl
@[simp] theorem State.setQueue_postedG (s : State) (q : Nat) (r : QueueRegs) : (s.setQueue q r).postedG = s.postedG := rfl
@[simp] theorem State.setQueue_postedT (s : State) (q : Nat) (r : QueueRegs) : (s.setQueue q r).postedT = s.postedT := rfl
@[simp] theorem State.setQueue_cxlG (s : State) (q : Nat) (r : QueueRegs) : (s.setQueue q r).cxlG = s.cxlG := rfl
@[simp] theorem State.setQueue_cxlWait (s : State) (q : Nat) (r : QueueRegs) : (s.setQueue q r).cxlWait = s.cxlWait := rfl
@[simp] theorem State.setQueue_cxlDone (s : State) (q : Nat) (r : QueueRegs) : (s.setQueue q r).cxlDone = s.cxlDone := rfl
@[simp] theorem State.setQueue_hits (s : State) (q : Nat) (r : QueueRegs) : (s.setQueue q r).hits = s.hits := rfl
@[simp] theorem State.setQueue_sysRecs (s : State) (q : Nat) (r : QueueRegs) : (s.setQueue q r).sysRecs = s.sysRecs := rfl
@[simp] theorem State.setQueue_hostRead (s : State) (q : Nat) (r : QueueRegs) : (s.setQueue q r).hostRead = s.hostRead := rfl
@[simp] theorem State.setQueue_lastPlace (s : State) (q : Nat) (r : QueueRegs) : (s.setQueue q r).lastPlace = s.lastPlace := rfl
@[simp] theorem State.setQueue_pkg (s : State) (q : Nat) (r : QueueRegs) : (s.setQueue q r).pkg = s.pkg := rfl

@[simp] theorem State.updFab_time (s : State) (f : Fabric → Fabric) : (s.updFab f).time = s.time := rfl
@[simp] theorem State.updFab_schedule (s : State) (f : Fabric → Fabric) : (s.updFab f).schedule = s.schedule := rfl
@[simp] theorem State.updFab_cur (s : State) (f : Fabric → Fabric) : (s.updFab f).cur = s.cur := rfl
@[simp] theorem State.updFab_quantum (s : State) (f : Fabric → Fabric) : (s.updFab f).quantum = s.quantum := rfl
@[simp] theorem State.updFab_inCycle (s : State) (f : Fabric → Fabric) : (s.updFab f).inCycle = s.inCycle := rfl
@[simp] theorem State.updFab_freeCtr (s : State) (f : Fabric → Fabric) : (s.updFab f).freeCtr = s.freeCtr := rfl
@[simp] theorem State.updFab_nextId (s : State) (f : Fabric → Fabric) : (s.updFab f).nextId = s.nextId := rfl
@[simp] theorem State.updFab_lanes (s : State) (f : Fabric → Fabric) : (s.updFab f).lanes = s.lanes := rfl
@[simp] theorem State.updFab_lines (s : State) (f : Fabric → Fabric) : (s.updFab f).lines = s.lines := rfl
@[simp] theorem State.updFab_sets (s : State) (f : Fabric → Fabric) : (s.updFab f).sets = s.sets := rfl
@[simp] theorem State.updFab_grids (s : State) (f : Fabric → Fabric) : (s.updFab f).grids = s.grids := rfl
@[simp] theorem State.updFab_dev (s : State) (f : Fabric → Fabric) : (s.updFab f).dev = s.dev := rfl
@[simp] theorem State.updFab_hostMem (s : State) (f : Fabric → Fabric) : (s.updFab f).hostMem = s.hostMem := rfl
@[simp] theorem State.updFab_badDev (s : State) (f : Fabric → Fabric) : (s.updFab f).badDev = s.badDev := rfl
@[simp] theorem State.updFab_l1 (s : State) (f : Fabric → Fabric) : (s.updFab f).l1 = s.l1 := rfl
@[simp] theorem State.updFab_l2 (s : State) (f : Fabric → Fabric) : (s.updFab f).l2 = s.l2 := rfl
@[simp] theorem State.updFab_horizon (s : State) (f : Fabric → Fabric) : (s.updFab f).horizon = s.horizon := rfl
@[simp] theorem State.updFab_icache (s : State) (f : Fabric → Fabric) : (s.updFab f).icache = s.icache := rfl
@[simp] theorem State.updFab_flight (s : State) (f : Fabric → Fabric) : (s.updFab f).flight = s.flight := rfl
@[simp] theorem State.updFab_bankQ (s : State) (f : Fabric → Fabric) : (s.updFab f).bankQ = s.bankQ := rfl
@[simp] theorem State.updFab_waitQ (s : State) (f : Fabric → Fabric) : (s.updFab f).waitQ = s.waitQ := rfl
@[simp] theorem State.updFab_tlb (s : State) (f : Fabric → Fabric) : (s.updFab f).tlb = s.tlb := rfl
@[simp] theorem State.updFab_walks (s : State) (f : Fabric → Fabric) : (s.updFab f).walks = s.walks := rfl
@[simp] theorem State.updFab_faultTab (s : State) (f : Fabric → Fabric) : (s.updFab f).faultTab = s.faultTab := rfl
@[simp] theorem State.updFab_copyQ (s : State) (f : Fabric → Fabric) : (s.updFab f).copyQ = s.copyQ := rfl
@[simp] theorem State.updFab_drainQ (s : State) (f : Fabric → Fabric) : (s.updFab f).drainQ = s.drainQ := rfl
@[simp] theorem State.updFab_matQ (s : State) (f : Fabric → Fabric) : (s.updFab f).matQ = s.matQ := rfl
@[simp] theorem State.updFab_runs (s : State) (f : Fabric → Fabric) : (s.updFab f).runs = s.runs := rfl
@[simp] theorem State.updFab_loads (s : State) (f : Fabric → Fabric) : (s.updFab f).loads = s.loads := rfl
@[simp] theorem State.updFab_parts (s : State) (f : Fabric → Fabric) : (s.updFab f).parts = s.parts := rfl
@[simp] theorem State.updFab_queues (s : State) (f : Fabric → Fabric) : (s.updFab f).queues = s.queues := rfl
@[simp] theorem State.updFab_postedG (s : State) (f : Fabric → Fabric) : (s.updFab f).postedG = s.postedG := rfl
@[simp] theorem State.updFab_postedT (s : State) (f : Fabric → Fabric) : (s.updFab f).postedT = s.postedT := rfl
@[simp] theorem State.updFab_cxlG (s : State) (f : Fabric → Fabric) : (s.updFab f).cxlG = s.cxlG := rfl
@[simp] theorem State.updFab_cxlWait (s : State) (f : Fabric → Fabric) : (s.updFab f).cxlWait = s.cxlWait := rfl
@[simp] theorem State.updFab_cxlDone (s : State) (f : Fabric → Fabric) : (s.updFab f).cxlDone = s.cxlDone := rfl
@[simp] theorem State.updFab_hits (s : State) (f : Fabric → Fabric) : (s.updFab f).hits = s.hits := rfl
@[simp] theorem State.updFab_sysRecs (s : State) (f : Fabric → Fabric) : (s.updFab f).sysRecs = s.sysRecs := rfl
@[simp] theorem State.updFab_hostRead (s : State) (f : Fabric → Fabric) : (s.updFab f).hostRead = s.hostRead := rfl
@[simp] theorem State.updFab_lastPlace (s : State) (f : Fabric → Fabric) : (s.updFab f).lastPlace = s.lastPlace := rfl
@[simp] theorem State.updFab_pkg (s : State) (f : Fabric → Fabric) : (s.updFab f).pkg = s.pkg := rfl

@[simp] theorem State.updPkg_time (s : State) (f : Package → Package) : (s.updPkg f).time = s.time := rfl
@[simp] theorem State.updPkg_schedule (s : State) (f : Package → Package) : (s.updPkg f).schedule = s.schedule := rfl
@[simp] theorem State.updPkg_cur (s : State) (f : Package → Package) : (s.updPkg f).cur = s.cur := rfl
@[simp] theorem State.updPkg_quantum (s : State) (f : Package → Package) : (s.updPkg f).quantum = s.quantum := rfl
@[simp] theorem State.updPkg_inCycle (s : State) (f : Package → Package) : (s.updPkg f).inCycle = s.inCycle := rfl
@[simp] theorem State.updPkg_freeCtr (s : State) (f : Package → Package) : (s.updPkg f).freeCtr = s.freeCtr := rfl
@[simp] theorem State.updPkg_nextId (s : State) (f : Package → Package) : (s.updPkg f).nextId = s.nextId := rfl
@[simp] theorem State.updPkg_lanes (s : State) (f : Package → Package) : (s.updPkg f).lanes = s.lanes := rfl
@[simp] theorem State.updPkg_lines (s : State) (f : Package → Package) : (s.updPkg f).lines = s.lines := rfl
@[simp] theorem State.updPkg_sets (s : State) (f : Package → Package) : (s.updPkg f).sets = s.sets := rfl
@[simp] theorem State.updPkg_grids (s : State) (f : Package → Package) : (s.updPkg f).grids = s.grids := rfl
@[simp] theorem State.updPkg_dev (s : State) (f : Package → Package) : (s.updPkg f).dev = s.dev := rfl
@[simp] theorem State.updPkg_hostMem (s : State) (f : Package → Package) : (s.updPkg f).hostMem = s.hostMem := rfl
@[simp] theorem State.updPkg_badDev (s : State) (f : Package → Package) : (s.updPkg f).badDev = s.badDev := rfl
@[simp] theorem State.updPkg_l1 (s : State) (f : Package → Package) : (s.updPkg f).l1 = s.l1 := rfl
@[simp] theorem State.updPkg_l2 (s : State) (f : Package → Package) : (s.updPkg f).l2 = s.l2 := rfl
@[simp] theorem State.updPkg_horizon (s : State) (f : Package → Package) : (s.updPkg f).horizon = s.horizon := rfl
@[simp] theorem State.updPkg_icache (s : State) (f : Package → Package) : (s.updPkg f).icache = s.icache := rfl
@[simp] theorem State.updPkg_flight (s : State) (f : Package → Package) : (s.updPkg f).flight = s.flight := rfl
@[simp] theorem State.updPkg_bankQ (s : State) (f : Package → Package) : (s.updPkg f).bankQ = s.bankQ := rfl
@[simp] theorem State.updPkg_waitQ (s : State) (f : Package → Package) : (s.updPkg f).waitQ = s.waitQ := rfl
@[simp] theorem State.updPkg_tlb (s : State) (f : Package → Package) : (s.updPkg f).tlb = s.tlb := rfl
@[simp] theorem State.updPkg_walks (s : State) (f : Package → Package) : (s.updPkg f).walks = s.walks := rfl
@[simp] theorem State.updPkg_faultTab (s : State) (f : Package → Package) : (s.updPkg f).faultTab = s.faultTab := rfl
@[simp] theorem State.updPkg_copyQ (s : State) (f : Package → Package) : (s.updPkg f).copyQ = s.copyQ := rfl
@[simp] theorem State.updPkg_drainQ (s : State) (f : Package → Package) : (s.updPkg f).drainQ = s.drainQ := rfl
@[simp] theorem State.updPkg_matQ (s : State) (f : Package → Package) : (s.updPkg f).matQ = s.matQ := rfl
@[simp] theorem State.updPkg_runs (s : State) (f : Package → Package) : (s.updPkg f).runs = s.runs := rfl
@[simp] theorem State.updPkg_loads (s : State) (f : Package → Package) : (s.updPkg f).loads = s.loads := rfl
@[simp] theorem State.updPkg_fab (s : State) (f : Package → Package) : (s.updPkg f).fab = s.fab := rfl
@[simp] theorem State.updPkg_parts (s : State) (f : Package → Package) : (s.updPkg f).parts = s.parts := rfl
@[simp] theorem State.updPkg_queues (s : State) (f : Package → Package) : (s.updPkg f).queues = s.queues := rfl
@[simp] theorem State.updPkg_postedG (s : State) (f : Package → Package) : (s.updPkg f).postedG = s.postedG := rfl
@[simp] theorem State.updPkg_postedT (s : State) (f : Package → Package) : (s.updPkg f).postedT = s.postedT := rfl
@[simp] theorem State.updPkg_cxlG (s : State) (f : Package → Package) : (s.updPkg f).cxlG = s.cxlG := rfl
@[simp] theorem State.updPkg_cxlWait (s : State) (f : Package → Package) : (s.updPkg f).cxlWait = s.cxlWait := rfl
@[simp] theorem State.updPkg_cxlDone (s : State) (f : Package → Package) : (s.updPkg f).cxlDone = s.cxlDone := rfl
@[simp] theorem State.updPkg_hits (s : State) (f : Package → Package) : (s.updPkg f).hits = s.hits := rfl
@[simp] theorem State.updPkg_sysRecs (s : State) (f : Package → Package) : (s.updPkg f).sysRecs = s.sysRecs := rfl
@[simp] theorem State.updPkg_hostRead (s : State) (f : Package → Package) : (s.updPkg f).hostRead = s.hostRead := rfl
@[simp] theorem State.updPkg_lastPlace (s : State) (f : Package → Package) : (s.updPkg f).lastPlace = s.lastPlace := rfl

@[simp] theorem State.updLineAll_time (s : State) (r : LineRef) (f : Line → Line) : (s.updLineAll r f).time = s.time := rfl
@[simp] theorem State.updLineAll_schedule (s : State) (r : LineRef) (f : Line → Line) : (s.updLineAll r f).schedule = s.schedule := rfl
@[simp] theorem State.updLineAll_cur (s : State) (r : LineRef) (f : Line → Line) : (s.updLineAll r f).cur = s.cur := rfl
@[simp] theorem State.updLineAll_quantum (s : State) (r : LineRef) (f : Line → Line) : (s.updLineAll r f).quantum = s.quantum := rfl
@[simp] theorem State.updLineAll_inCycle (s : State) (r : LineRef) (f : Line → Line) : (s.updLineAll r f).inCycle = s.inCycle := rfl
@[simp] theorem State.updLineAll_freeCtr (s : State) (r : LineRef) (f : Line → Line) : (s.updLineAll r f).freeCtr = s.freeCtr := rfl
@[simp] theorem State.updLineAll_nextId (s : State) (r : LineRef) (f : Line → Line) : (s.updLineAll r f).nextId = s.nextId := rfl
@[simp] theorem State.updLineAll_lanes (s : State) (r : LineRef) (f : Line → Line) : (s.updLineAll r f).lanes = s.lanes := rfl
@[simp] theorem State.updLineAll_sets (s : State) (r : LineRef) (f : Line → Line) : (s.updLineAll r f).sets = s.sets := rfl
@[simp] theorem State.updLineAll_grids (s : State) (r : LineRef) (f : Line → Line) : (s.updLineAll r f).grids = s.grids := rfl
@[simp] theorem State.updLineAll_dev (s : State) (r : LineRef) (f : Line → Line) : (s.updLineAll r f).dev = s.dev := rfl
@[simp] theorem State.updLineAll_hostMem (s : State) (r : LineRef) (f : Line → Line) : (s.updLineAll r f).hostMem = s.hostMem := rfl
@[simp] theorem State.updLineAll_badDev (s : State) (r : LineRef) (f : Line → Line) : (s.updLineAll r f).badDev = s.badDev := rfl
@[simp] theorem State.updLineAll_l1 (s : State) (r : LineRef) (f : Line → Line) : (s.updLineAll r f).l1 = s.l1 := rfl
@[simp] theorem State.updLineAll_l2 (s : State) (r : LineRef) (f : Line → Line) : (s.updLineAll r f).l2 = s.l2 := rfl
@[simp] theorem State.updLineAll_horizon (s : State) (r : LineRef) (f : Line → Line) : (s.updLineAll r f).horizon = s.horizon := rfl
@[simp] theorem State.updLineAll_icache (s : State) (r : LineRef) (f : Line → Line) : (s.updLineAll r f).icache = s.icache := rfl
@[simp] theorem State.updLineAll_bankQ (s : State) (r : LineRef) (f : Line → Line) : (s.updLineAll r f).bankQ = s.bankQ := rfl
@[simp] theorem State.updLineAll_waitQ (s : State) (r : LineRef) (f : Line → Line) : (s.updLineAll r f).waitQ = s.waitQ := rfl
@[simp] theorem State.updLineAll_tlb (s : State) (r : LineRef) (f : Line → Line) : (s.updLineAll r f).tlb = s.tlb := rfl
@[simp] theorem State.updLineAll_walks (s : State) (r : LineRef) (f : Line → Line) : (s.updLineAll r f).walks = s.walks := rfl
@[simp] theorem State.updLineAll_faultTab (s : State) (r : LineRef) (f : Line → Line) : (s.updLineAll r f).faultTab = s.faultTab := rfl
@[simp] theorem State.updLineAll_copyQ (s : State) (r : LineRef) (f : Line → Line) : (s.updLineAll r f).copyQ = s.copyQ := rfl
@[simp] theorem State.updLineAll_drainQ (s : State) (r : LineRef) (f : Line → Line) : (s.updLineAll r f).drainQ = s.drainQ := rfl
@[simp] theorem State.updLineAll_matQ (s : State) (r : LineRef) (f : Line → Line) : (s.updLineAll r f).matQ = s.matQ := rfl
@[simp] theorem State.updLineAll_runs (s : State) (r : LineRef) (f : Line → Line) : (s.updLineAll r f).runs = s.runs := rfl
@[simp] theorem State.updLineAll_loads (s : State) (r : LineRef) (f : Line → Line) : (s.updLineAll r f).loads = s.loads := rfl
@[simp] theorem State.updLineAll_fab (s : State) (r : LineRef) (f : Line → Line) : (s.updLineAll r f).fab = s.fab := rfl
@[simp] theorem State.updLineAll_parts (s : State) (r : LineRef) (f : Line → Line) : (s.updLineAll r f).parts = s.parts := rfl
@[simp] theorem State.updLineAll_queues (s : State) (r : LineRef) (f : Line → Line) : (s.updLineAll r f).queues = s.queues := rfl
@[simp] theorem State.updLineAll_postedG (s : State) (r : LineRef) (f : Line → Line) : (s.updLineAll r f).postedG = s.postedG := rfl
@[simp] theorem State.updLineAll_postedT (s : State) (r : LineRef) (f : Line → Line) : (s.updLineAll r f).postedT = s.postedT := rfl
@[simp] theorem State.updLineAll_cxlG (s : State) (r : LineRef) (f : Line → Line) : (s.updLineAll r f).cxlG = s.cxlG := rfl
@[simp] theorem State.updLineAll_cxlWait (s : State) (r : LineRef) (f : Line → Line) : (s.updLineAll r f).cxlWait = s.cxlWait := rfl
@[simp] theorem State.updLineAll_cxlDone (s : State) (r : LineRef) (f : Line → Line) : (s.updLineAll r f).cxlDone = s.cxlDone := rfl
@[simp] theorem State.updLineAll_hits (s : State) (r : LineRef) (f : Line → Line) : (s.updLineAll r f).hits = s.hits := rfl
@[simp] theorem State.updLineAll_sysRecs (s : State) (r : LineRef) (f : Line → Line) : (s.updLineAll r f).sysRecs = s.sysRecs := rfl
@[simp] theorem State.updLineAll_hostRead (s : State) (r : LineRef) (f : Line → Line) : (s.updLineAll r f).hostRead = s.hostRead := rfl
@[simp] theorem State.updLineAll_lastPlace (s : State) (r : LineRef) (f : Line → Line) : (s.updLineAll r f).lastPlace = s.lastPlace := rfl
@[simp] theorem State.updLineAll_pkg (s : State) (r : LineRef) (f : Line → Line) : (s.updLineAll r f).pkg = s.pkg := rfl

@[simp] theorem State.setL2_time (s : State) (e : L2Line) : (s.setL2 e).time = s.time := rfl
@[simp] theorem State.setL2_schedule (s : State) (e : L2Line) : (s.setL2 e).schedule = s.schedule := rfl
@[simp] theorem State.setL2_cur (s : State) (e : L2Line) : (s.setL2 e).cur = s.cur := rfl
@[simp] theorem State.setL2_quantum (s : State) (e : L2Line) : (s.setL2 e).quantum = s.quantum := rfl
@[simp] theorem State.setL2_inCycle (s : State) (e : L2Line) : (s.setL2 e).inCycle = s.inCycle := rfl
@[simp] theorem State.setL2_freeCtr (s : State) (e : L2Line) : (s.setL2 e).freeCtr = s.freeCtr := rfl
@[simp] theorem State.setL2_nextId (s : State) (e : L2Line) : (s.setL2 e).nextId = s.nextId := rfl
@[simp] theorem State.setL2_lanes (s : State) (e : L2Line) : (s.setL2 e).lanes = s.lanes := rfl
@[simp] theorem State.setL2_lines (s : State) (e : L2Line) : (s.setL2 e).lines = s.lines := rfl
@[simp] theorem State.setL2_sets (s : State) (e : L2Line) : (s.setL2 e).sets = s.sets := rfl
@[simp] theorem State.setL2_grids (s : State) (e : L2Line) : (s.setL2 e).grids = s.grids := rfl
@[simp] theorem State.setL2_dev (s : State) (e : L2Line) : (s.setL2 e).dev = s.dev := rfl
@[simp] theorem State.setL2_hostMem (s : State) (e : L2Line) : (s.setL2 e).hostMem = s.hostMem := rfl
@[simp] theorem State.setL2_badDev (s : State) (e : L2Line) : (s.setL2 e).badDev = s.badDev := rfl
@[simp] theorem State.setL2_l1 (s : State) (e : L2Line) : (s.setL2 e).l1 = s.l1 := rfl
@[simp] theorem State.setL2_horizon (s : State) (e : L2Line) : (s.setL2 e).horizon = s.horizon := rfl
@[simp] theorem State.setL2_icache (s : State) (e : L2Line) : (s.setL2 e).icache = s.icache := rfl
@[simp] theorem State.setL2_flight (s : State) (e : L2Line) : (s.setL2 e).flight = s.flight := rfl
@[simp] theorem State.setL2_bankQ (s : State) (e : L2Line) : (s.setL2 e).bankQ = s.bankQ := rfl
@[simp] theorem State.setL2_waitQ (s : State) (e : L2Line) : (s.setL2 e).waitQ = s.waitQ := rfl
@[simp] theorem State.setL2_tlb (s : State) (e : L2Line) : (s.setL2 e).tlb = s.tlb := rfl
@[simp] theorem State.setL2_walks (s : State) (e : L2Line) : (s.setL2 e).walks = s.walks := rfl
@[simp] theorem State.setL2_faultTab (s : State) (e : L2Line) : (s.setL2 e).faultTab = s.faultTab := rfl
@[simp] theorem State.setL2_copyQ (s : State) (e : L2Line) : (s.setL2 e).copyQ = s.copyQ := rfl
@[simp] theorem State.setL2_drainQ (s : State) (e : L2Line) : (s.setL2 e).drainQ = s.drainQ := rfl
@[simp] theorem State.setL2_matQ (s : State) (e : L2Line) : (s.setL2 e).matQ = s.matQ := rfl
@[simp] theorem State.setL2_runs (s : State) (e : L2Line) : (s.setL2 e).runs = s.runs := rfl
@[simp] theorem State.setL2_loads (s : State) (e : L2Line) : (s.setL2 e).loads = s.loads := rfl
@[simp] theorem State.setL2_fab (s : State) (e : L2Line) : (s.setL2 e).fab = s.fab := rfl
@[simp] theorem State.setL2_parts (s : State) (e : L2Line) : (s.setL2 e).parts = s.parts := rfl
@[simp] theorem State.setL2_queues (s : State) (e : L2Line) : (s.setL2 e).queues = s.queues := rfl
@[simp] theorem State.setL2_postedG (s : State) (e : L2Line) : (s.setL2 e).postedG = s.postedG := rfl
@[simp] theorem State.setL2_postedT (s : State) (e : L2Line) : (s.setL2 e).postedT = s.postedT := rfl
@[simp] theorem State.setL2_cxlG (s : State) (e : L2Line) : (s.setL2 e).cxlG = s.cxlG := rfl
@[simp] theorem State.setL2_cxlWait (s : State) (e : L2Line) : (s.setL2 e).cxlWait = s.cxlWait := rfl
@[simp] theorem State.setL2_cxlDone (s : State) (e : L2Line) : (s.setL2 e).cxlDone = s.cxlDone := rfl
@[simp] theorem State.setL2_hits (s : State) (e : L2Line) : (s.setL2 e).hits = s.hits := rfl
@[simp] theorem State.setL2_sysRecs (s : State) (e : L2Line) : (s.setL2 e).sysRecs = s.sysRecs := rfl
@[simp] theorem State.setL2_hostRead (s : State) (e : L2Line) : (s.setL2 e).hostRead = s.hostRead := rfl
@[simp] theorem State.setL2_lastPlace (s : State) (e : L2Line) : (s.setL2 e).lastPlace = s.lastPlace := rfl
@[simp] theorem State.setL2_pkg (s : State) (e : L2Line) : (s.setL2 e).pkg = s.pkg := rfl

/-! ### Fields that an update sets -/

@[simp] theorem State.setLine_lines (s : State) (l : Line) : (s.setLine l).lines = s.lines.map fun m => if m.ref = l.ref then l else m := rfl
@[simp] theorem State.updFab_fab (s : State) (f : Fabric → Fabric) : (s.updFab f).fab = f s.fab := rfl
@[simp] theorem State.updPkg_pkg (s : State) (f : Package → Package) : (s.updPkg f).pkg = f s.pkg := rfl

/-! ### Reads of one component -/

/-- A line written back is read back, when a line with its reference is there. -/
theorem find_map_ref (ls : List Line) (l : Line) (h : (ls.find? fun m => decide (m.ref = l.ref)).isSome) :
    ((ls.map fun m => if m.ref = l.ref then l else m).find? fun m => decide (m.ref = l.ref)) = some l := by
  induction ls with
  | nil => simp at h
  | cons a r ih =>
    by_cases ha : a.ref = l.ref
    · simp [ha]
    · simp only [List.map_cons, ha, if_false, List.find?_cons, decide_false] at h ⊢
      exact ih h

theorem State.line_setLine (s : State) (l : Line) (h : (s.line l.ref).isSome) : (s.setLine l).line l.ref = some l :=
  find_map_ref s.lines l h

/-- Writing a line back leaves every other line. -/
theorem State.line_setLine_ne (s : State) (l : Line) (r : LineRef) (h : r ≠ l.ref) : (s.setLine l).line r = s.line r := by
  simp only [State.line, State.setLine]
  induction s.lines with
  | nil => rfl
  | cons a t ih =>
    by_cases ha : a.ref = l.ref
    · simp only [List.map_cons, ha, if_true, List.find?_cons, Ne.symm h, decide_false]; exact ih
    · by_cases hr : a.ref = r
      · simp [hr, h]
      · simp only [List.map_cons, ha, if_false, List.find?_cons, hr, decide_false]; exact ih

theorem State.part_updPart (s : State) (p : Nat) (f : Partition → Partition) (h : p < 8) :
    (s.updPart p f).part p = f (s.part p) := by
  simp [State.part, State.updPart, Vector.getD, h]

theorem State.part_updPart_ne (s : State) (p q : Nat) (f : Partition → Partition) (h : p ≠ q) :
    (s.updPart p f).part q = s.part q := by
  simp [State.part, State.updPart, Vector.getD, h]

@[simp] theorem State.setLine_cset (s : State) (l : Line) (x : SetRef) : (s.setLine l).cset x = s.cset x := rfl
@[simp] theorem State.setLine_grid (s : State) (l : Line) (x : Nat) : (s.setLine l).grid x = s.grid x := rfl
@[simp] theorem State.setLine_part (s : State) (l : Line) (x : Nat) : (s.setLine l).part x = s.part x := rfl
@[simp] theorem State.setLine_queue (s : State) (l : Line) (x : Nat) : (s.setLine l).queue x = s.queue x := rfl
@[simp] theorem State.updLine_cset (s : State) (r : LineRef) (f : Line → Line) (x : SetRef) : (s.updLine r f).cset x = s.cset x := rfl
@[simp] theorem State.updLine_grid (s : State) (r : LineRef) (f : Line → Line) (x : Nat) : (s.updLine r f).grid x = s.grid x := rfl
@[simp] theorem State.updLine_part (s : State) (r : LineRef) (f : Line → Line) (x : Nat) : (s.updLine r f).part x = s.part x := rfl
@[simp] theorem State.updLine_queue (s : State) (r : LineRef) (f : Line → Line) (x : Nat) : (s.updLine r f).queue x = s.queue x := rfl
@[simp] theorem State.updSet_line (s : State) (r : SetRef) (f : CSet → CSet) (x : LineRef) : (s.updSet r f).line x = s.line x := rfl
@[simp] theorem State.updSet_grid (s : State) (r : SetRef) (f : CSet → CSet) (x : Nat) : (s.updSet r f).grid x = s.grid x := rfl
@[simp] theorem State.updSet_part (s : State) (r : SetRef) (f : CSet → CSet) (x : Nat) : (s.updSet r f).part x = s.part x := rfl
@[simp] theorem State.updSet_queue (s : State) (r : SetRef) (f : CSet → CSet) (x : Nat) : (s.updSet r f).queue x = s.queue x := rfl
@[simp] theorem State.updGrid_line (s : State) (g : Nat) (f : Grid → Grid) (x : LineRef) : (s.updGrid g f).line x = s.line x := rfl
@[simp] theorem State.updGrid_cset (s : State) (g : Nat) (f : Grid → Grid) (x : SetRef) : (s.updGrid g f).cset x = s.cset x := rfl
@[simp] theorem State.updGrid_part (s : State) (g : Nat) (f : Grid → Grid) (x : Nat) : (s.updGrid g f).part x = s.part x := rfl
@[simp] theorem State.updGrid_queue (s : State) (g : Nat) (f : Grid → Grid) (x : Nat) : (s.updGrid g f).queue x = s.queue x := rfl
@[simp] theorem State.updPart_line (s : State) (p : Nat) (f : Partition → Partition) (x : LineRef) : (s.updPart p f).line x = s.line x := rfl
@[simp] theorem State.updPart_cset (s : State) (p : Nat) (f : Partition → Partition) (x : SetRef) : (s.updPart p f).cset x = s.cset x := rfl
@[simp] theorem State.updPart_grid (s : State) (p : Nat) (f : Partition → Partition) (x : Nat) : (s.updPart p f).grid x = s.grid x := rfl
@[simp] theorem State.updPart_queue (s : State) (p : Nat) (f : Partition → Partition) (x : Nat) : (s.updPart p f).queue x = s.queue x := rfl
@[simp] theorem State.setQueue_line (s : State) (q : Nat) (r : QueueRegs) (x : LineRef) : (s.setQueue q r).line x = s.line x := rfl
@[simp] theorem State.setQueue_cset (s : State) (q : Nat) (r : QueueRegs) (x : SetRef) : (s.setQueue q r).cset x = s.cset x := rfl
@[simp] theorem State.setQueue_grid (s : State) (q : Nat) (r : QueueRegs) (x : Nat) : (s.setQueue q r).grid x = s.grid x := rfl
@[simp] theorem State.setQueue_part (s : State) (q : Nat) (r : QueueRegs) (x : Nat) : (s.setQueue q r).part x = s.part x := rfl
@[simp] theorem State.updFab_line (s : State) (f : Fabric → Fabric) (x : LineRef) : (s.updFab f).line x = s.line x := rfl
@[simp] theorem State.updFab_cset (s : State) (f : Fabric → Fabric) (x : SetRef) : (s.updFab f).cset x = s.cset x := rfl
@[simp] theorem State.updFab_grid (s : State) (f : Fabric → Fabric) (x : Nat) : (s.updFab f).grid x = s.grid x := rfl
@[simp] theorem State.updFab_part (s : State) (f : Fabric → Fabric) (x : Nat) : (s.updFab f).part x = s.part x := rfl
@[simp] theorem State.updFab_queue (s : State) (f : Fabric → Fabric) (x : Nat) : (s.updFab f).queue x = s.queue x := rfl
@[simp] theorem State.updPkg_line (s : State) (f : Package → Package) (x : LineRef) : (s.updPkg f).line x = s.line x := rfl
@[simp] theorem State.updPkg_cset (s : State) (f : Package → Package) (x : SetRef) : (s.updPkg f).cset x = s.cset x := rfl
@[simp] theorem State.updPkg_grid (s : State) (f : Package → Package) (x : Nat) : (s.updPkg f).grid x = s.grid x := rfl
@[simp] theorem State.updPkg_part (s : State) (f : Package → Package) (x : Nat) : (s.updPkg f).part x = s.part x := rfl
@[simp] theorem State.updPkg_queue (s : State) (f : Package → Package) (x : Nat) : (s.updPkg f).queue x = s.queue x := rfl
@[simp] theorem State.updLineAll_cset (s : State) (r : LineRef) (f : Line → Line) (x : SetRef) : (s.updLineAll r f).cset x = s.cset x := rfl
@[simp] theorem State.updLineAll_grid (s : State) (r : LineRef) (f : Line → Line) (x : Nat) : (s.updLineAll r f).grid x = s.grid x := rfl
@[simp] theorem State.updLineAll_part (s : State) (r : LineRef) (f : Line → Line) (x : Nat) : (s.updLineAll r f).part x = s.part x := rfl
@[simp] theorem State.updLineAll_queue (s : State) (r : LineRef) (f : Line → Line) (x : Nat) : (s.updLineAll r f).queue x = s.queue x := rfl
@[simp] theorem State.setL2_line (s : State) (e : L2Line) (x : LineRef) : (s.setL2 e).line x = s.line x := rfl
@[simp] theorem State.setL2_cset (s : State) (e : L2Line) (x : SetRef) : (s.setL2 e).cset x = s.cset x := rfl
@[simp] theorem State.setL2_grid (s : State) (e : L2Line) (x : Nat) : (s.setL2 e).grid x = s.grid x := rfl
@[simp] theorem State.setL2_part (s : State) (e : L2Line) (x : Nat) : (s.setL2 e).part x = s.part x := rfl
@[simp] theorem State.setL2_queue (s : State) (e : L2Line) (x : Nat) : (s.setL2 e).queue x = s.queue x := rfl

end Sys2Proof.Machine
end

