-- ==== Sys2Proof/Laws/Threads.lean ====
section
/-!
SUPPORT. What the thread-by-thread issue of an instruction comes to when no thread waits or faults: the loop is a fold over the
issue mask, and, for an instruction that changes nothing but its threads, the line that `Line.afterThreads` gives.
-/
namespace Sys2Proof.Machine

theorem issueThreads_nodup (l : Line) : l.issueThreads.Nodup := List.Nodup.filter _ List.nodup_range

theorem mem_issueThreads (l : Line) (j : Nat) :
    j ∈ l.issueThreads ↔ j < l.width ∧ l.tri ≤ j ∧ l.isActive j = true ∧ l.guard j = true := by
  simp [Line.issueThreads, and_assoc]

/-- A loop in which no thread waits or faults folds its threads' effects. -/
theorem threadLoop_fold (i : Instr) (f : State → Line → Nat → TRes) (g : Line → Nat → Line) (P : List Nat → Line → Prop) (s : State)
    (hf : ∀ j js m, P (j :: js) m → f s m j = .ok s (g m j) ∧ P js (g m j)) (js : List Nat) (l : Line) (hl : P js l) :
    threadLoop i f State.finish js s l = s.finish (js.foldl g l) := by
  induction js generalizing l with
  | nil => rfl
  | cons j js ih =>
    obtain ⟨h1, h2⟩ := hf j js l hl
    simp only [threadLoop, h1, List.foldl_cons]
    exact ih _ h2

/-- With no bound on the threads of an issue, all of them issue. -/
theorem issueThreads_all (i : Instr) (f : State → Line → Nat → TRes) (s : State) (l : Line) (h : s.quantum = 0) :
    issueThreads i f s l = threadLoop i f State.finish l.issueThreads s l := by
  simp [issueThreads, h]

/-- A thread that makes no access and changes no set has nothing to settle. -/
theorem settlePush_same (s : State) (l m : Line) (j : Nat) : settlePush s s l m j = .ok s m := by
  simp [settlePush]

/-- The line `m` is `l` but for its threads and its tap carry. -/
def Line.sameBut (m l : Line) : Prop := ∃ ths c v, m = { l with threads := ths, carry := c, cv := v }

theorem Line.thread_mk (l : Line) (ths : List Thread) (c : Vector DWord 4) (v : Bool) (j : Nat) :
    ({ l with threads := ths, carry := c, cv := v } : Line).thread j = nth Thread.launch ths j := rfl

theorem nth_set_ne {α : Type} (d : α) (l : List α) (i j : Nat) (a : α) (h : i ≠ j) : nth d (l.set i a) j = nth d l j := by
  simp [nth, h]

theorem thread_updThread_ne (m : Line) (i j : Nat) (f : Thread → Thread) (h : i ≠ j) : (m.updThread i f).thread j = m.thread j :=
  nth_set_ne _ _ _ _ _ h

theorem thread_updThread (m : Line) (j : Nat) (f : Thread → Thread) (h : j < m.threads.length) :
    (m.updThread j f).thread j = f (m.thread j) := by
  simp [Line.updThread, Line.thread, nth, h]

/-- Thread effects applied one after another, as a list. -/
theorem foldl_set_eq (js : List Nat) (hn : js.Nodup) (F : Nat → Thread → Thread) (ths : List Thread) :
    js.foldl (fun ts j => ts.set j (F j (nth Thread.launch ts j))) ths = ths.mapIdx fun j t => if j ∈ js then F j t else t := by
  induction js generalizing ths with
  | nil => exact (List.ext_getElem (by simp) (by simp)).symm
  | cons j js ih =>
    rw [List.nodup_cons] at hn
    rw [List.foldl_cons, ih hn.2]
    apply List.ext_getElem
    · simp
    · intro n h1 h2
      simp only [List.getElem_mapIdx, List.mem_cons, List.getElem_set]
      simp only [List.length_mapIdx, List.length_set] at h1
      by_cases hnj : j = n
      · subst hnj
        simp [hn.1, nth, h1]
      · simp [hnj, Ne.symm hnj]

/-- A per-thread instruction that changes nothing but its threads. -/
theorem threadLoop_threads (i : Instr) (f : State → Line → Nat → TRes) (F : Nat → Thread → Thread) (s : State) (l : Line)
    (hf : ∀ m j, j ∈ l.issueThreads → m.sameBut l → m.thread j = l.thread j →
      ∃ c v, f s m j = .ok s { m.updThread j (F j) with carry := c, cv := v }) :
    threadLoop i f State.finish l.issueThreads s l = s.afterLine l (l.afterThreads F) := by
  have key : ∀ js : List Nat, js.Nodup → (∀ j ∈ js, j ∈ l.issueThreads) → ∀ m : Line, m.sameBut l → (∀ j ∈ js, m.thread j = l.thread j) →
      ∃ c v, threadLoop i f State.finish js s m = s.finish { m with
        threads := js.foldl (fun ts j => ts.set j (F j (nth Thread.launch ts j))) m.threads, carry := c, cv := v } := by
    intro js
    induction js with
    | nil => intro _ _ m _ _; exact ⟨m.carry, m.cv, rfl⟩
    | cons j js ih =>
      intro hn hin m hm ht
      rw [List.nodup_cons] at hn
      obtain ⟨c, v, h1⟩ := hf m j (hin j (List.mem_cons_self ..)) hm (ht j (List.mem_cons_self ..))
      have hm' : ({ m.updThread j (F j) with carry := c, cv := v } : Line).sameBut l := by
        obtain ⟨ths, c0, v0, rfl⟩ := hm
        exact ⟨_, c, v, rfl⟩
      obtain ⟨c', v', h2⟩ := ih hn.2 (fun k hk => hin k (List.mem_cons_of_mem _ hk)) _ hm' (by
        intro k hk
        have hjk : j ≠ k := fun h => hn.1 (h ▸ hk)
        exact (nth_set_ne _ _ _ _ _ hjk).trans (ht k (List.mem_cons_of_mem _ hk)))
      refine ⟨c', v', ?_⟩
      simp only [threadLoop, h1]
      rw [h2]
      rfl
  obtain ⟨c, v, h⟩ := key l.issueThreads (issueThreads_nodup l) (fun _ h => h) l ⟨_, _, _, rfl⟩ (fun _ _ => rfl)
  rw [h, foldl_set_eq _ (issueThreads_nodup l)]
  rfl

/-! ### Reading plain operands -/

theorem readSrc_plain (s : State) (l : Line) (j : Nat) (dbl : Bool) (own : DWord) (a : Src) (h : plain a = true) :
    readSrc s l j dbl own a = .ok s l (plainVal l j dbl a) := by
  cases a <;> simp_all [plain, readSrc, plainVal]

theorem ready_ok (s : State) (l : Line) (j : Nat) (xs ks : List Nat) (k : TRes) (h : readyRegs l xs ks) :
    Machine.ready s l j xs ks k = k := by
  obtain ⟨h1, h2, h3⟩ := h
  have e1 : l.pendingX j xs = none := by
    simp only [Line.pendingX, List.find?_eq_none]
    intro n hn; simpa using fun hp => h1 (j, n) hp hn
  have e2 : l.pendingK ks = none := by
    simp only [Line.pendingK, List.find?_eq_none]
    intro n hn; simpa using h2 n hn
  have e3 : l.failedX j xs = none := by
    have hn : (l.failed.filter fun f => decide (f.1 = j) && xs.contains f.2.1) = [] := by
      simp only [List.filter_eq_nil_iff, Bool.and_eq_true, decide_eq_true_eq, List.contains_iff_mem, not_and]
      intro f hf _ hx
      exact h3 f hf hx
    simp only [Line.failedX, hn, leastBy, Option.map_none]
  simp only [Machine.ready, e1, e2, e3]

theorem Line.x_congr (m l : Line) (j n : Nat) (h : m.thread j = l.thread j) : m.x j n = l.x j n := by simp [Line.x, h]
theorem Line.xd_congr (m l : Line) (j n : Nat) (h : m.thread j = l.thread j) : m.xd j n = l.xd j n := by
  simp [Line.xd, Line.x, h]

theorem plainVal_congr (m l : Line) (j : Nat) (dbl : Bool) (a : Src) (hm : m.sameBut l) (h : m.thread j = l.thread j) :
    plainVal m j dbl a = plainVal l j dbl a := by
  obtain ⟨ths, c, v, rfl⟩ := hm
  cases a <;> simp only [plainVal]
  · rw [Line.xd_congr _ _ _ _ h, Line.x_congr _ _ _ _ h]
  · rfl

/-! ### Writing a register of a thread -/

theorem Line.updThread_same (l : Line) (j : Nat) : l.updThread j (fun t => t) = l := by
  have h : l.threads.set j (l.thread j) = l.threads := by
    apply List.ext_getElem (by simp)
    intro n h1 h2
    simp only [List.getElem_set]
    split
    · rename_i hj; subst hj; simp [Line.thread, nth, h2]
    · rfl
  simp only [Line.updThread, h]

theorem Line.updThread_updThread (l : Line) (j : Nat) (f g : Thread → Thread) :
    (l.updThread j f).updThread j g = l.updThread j fun t => g (f t) := by
  by_cases h : j < l.threads.length
  · simp only [Line.updThread, List.set_set]
    congr 2
    show g (nth Thread.launch (l.threads.set j (f (l.thread j))) j) = _
    simp [nth, h]
  · simp only [Line.updThread, List.set_eq_of_length_le (Nat.le_of_not_lt h)]

theorem Line.setX_eq (l : Line) (j n : Nat) (v : Word) : l.setX j n v = l.updThread j fun t => t.put false n (v.setWidth 64) := by
  by_cases h : n = 0
  · simp only [Line.setX, h, if_true, Thread.put, Line.updThread_same]
  · have hv : (v.setWidth 64).setWidth 32 = v := by ext i hi; simp
    simp [Line.setX, h, Thread.put, hv]

theorem Line.setXd_eq (l : Line) (j n : Nat) (v : DWord) : l.setXd j n v = l.updThread j fun t => t.put true n v := by
  by_cases h : n = 0
  · simp only [Line.setXd, h, if_true, Thread.put, Line.updThread_same]
  · simp only [Line.setXd, Line.setX, h, if_false, Nat.add_eq_zero_iff, Thread.put, if_true, Nat.one_ne_zero, and_self, Line.updThread_updThread]

/-- A result written to a register of class 0 (R59, R76 item 3). -/
theorem writeDst_reg (i : Instr) (s : State) (l : Line) (j : Nat) (dbl : Bool) (n : Fin 32) (v : DWord) :
    writeDst i s l j dbl (.r n) v = .ok s (l.updThread j fun t => t.put dbl n v) := by
  cases dbl
  · simp only [writeDst, Fld.num, Bool.false_eq_true, if_false, Line.setX_eq, Thread.put, TRes.ok.injEq, true_and]
    congr 1; funext t; simp
  · simp only [writeDst, Fld.num, if_true, Line.setXd_eq]

/-! ### One thread of a compute instruction (R66, R227) -/

theorem raise_ok (st : Word) (fl : Flags) (h : enabledOf st fl = 0) : raise st fl = .ok (st ||| fpstFlags fl) := by
  simp [raise, h]

theorem Thread.put_fpst (t : Thread) (dbl : Bool) (n : Nat) (v : DWord) (w : Word) :
    ({ t with fpst := w } : Thread).put dbl n v = { t.put dbl n v with fpst := w } := by
  simp only [Thread.put]; split
  · rfl
  · split <;> rfl

/-- One thread of a compute instruction whose sources are registers and whose result goes to a register. -/
theorem computeThread_plain (i : Instr) (da db dd : Bool) (a b : Src) (third : List Nat) (n : Fin 32)
    (wr : State → Line → Nat → DWord → TRes) (f : Line → Nat → DWord → DWord → Res) (s : State) (l : Line) (j : Nat)
    (hw : ∀ st v, wr s (l.setFpst j st) j v = writeDst i s (l.setFpst j st) j dd (.r n) v) (ha : plain a = true) (hb : plain b = true)
    (hr : readyRegs l (a.xregs da ++ b.xregs db ++ third) (a.kregs da ++ b.kregs db))
    (hx : enabledOf (l.fpst j) (f l j (plainVal l j da a) (plainVal l j db b)).fl = 0)
    (hd : (f l j (plainVal l j da a) (plainVal l j db b)).dr = false) :
    ∃ c v, computeThread da db dd a b third wr f s l j =
      .ok s { l.updThread j (fun t => t.result dd n (f l j (plainVal l j da a) (plainVal l j db b))) with carry := c, cv := v } := by
  simp only [computeThread, ready_ok _ _ _ _ _ _ hr, readSrc_plain _ _ _ _ _ _ ha, readSrc_plain _ _ _ _ _ _ hb, raise_ok _ _ hx,
    hd, Bool.false_eq_true, if_false, hw, writeDst_reg]
  have h : ((l.setFpst j (l.fpst j ||| fpstFlags (f l j (plainVal l j da a) (plainVal l j db b)).fl)).updThread j fun t =>
      t.put dd n (f l j (plainVal l j da a) (plainVal l j db b)).v) =
      l.updThread j fun t => t.result dd n (f l j (plainVal l j da a) (plainVal l j db b)) := by
    rw [Line.setFpst, Line.updThread_updThread]
    simp only [Line.updThread, Thread.put_fpst, Thread.result, Line.fpst]
  simp only [h, settlePush_same]
  exact ⟨_, _, rfl⟩

theorem readyRegs_congr (m l : Line) (xs ks : List Nat) (hm : m.sameBut l) (h : readyRegs l xs ks) : readyRegs m xs ks := by
  obtain ⟨ths, c, v, rfl⟩ := hm; exact h

theorem onLine_issues (s : State) (l : Line) (f : Line → Out) (h : Issues s l) : onLine s f = f l := by
  simp only [onLine, h.1, h.2]

/-- A compute instruction on registers: each thread of the issue mask has its result, and nothing else changes. -/
theorem perThread_plain (i : Instr) (da db dd : Bool) (a b : Src) (third : List Nat) (n : Fin 32) (operands types : Line → Bool)
    (f : Line → Nat → DWord → DWord → Res) (F : State → Line → Nat → TRes)
    (wr : State → Line → Nat → DWord → TRes) (s : State) (l : Line) (R : Nat → Res)
    (hI : IssuesAll s l) (ho : operands l = true) (ht : types l = true) (ha : plain a = true) (hb : plain b = true)
    (hF : ∀ (m : Line) j, m.sameBut l → F s m j = computeThread da db dd a b third wr f s m j)
    (hw : ∀ (m : Line) j st v, m.sameBut l → wr s (m.setFpst j st) j v = writeDst i s (m.setFpst j st) j dd (.r n) v)
    (hr : readyRegs l (a.xregs da ++ b.xregs db ++ third) (a.kregs da ++ b.kregs db))
    (hf : ∀ m j, j ∈ l.issueThreads → m.sameBut l → m.thread j = l.thread j →
      f m j (plainVal l j da a) (plainVal l j db b) = R j)
    (hx : ∀ j ∈ l.issueThreads, enabledOf (l.fpst j) (R j).fl = 0 ∧ (R j).dr = false) :
    perThread i operands types F s = .next (s.afterLine l (l.afterThreads fun j t => t.result dd n (R j))) := by
  simp only [perThread, onLine_issues s l _ hI.1, ho, ht, Bool.not_true, Bool.false_eq_true, if_false, issueThreads_all _ _ _ _ hI.2]
  rw [threadLoop_threads i F (fun j t => t.result dd n (R j)) s l]
  intro m j hj hm hmj
  rw [hF m j hm]
  have e1 : plainVal m j da a = plainVal l j da a := plainVal_congr m l j da a hm hmj
  have e2 : plainVal m j db b = plainVal l j db b := plainVal_congr m l j db b hm hmj
  have e3 : m.fpst j = l.fpst j := by simp [Line.fpst, hmj]
  obtain ⟨c, v, h⟩ := computeThread_plain i da db dd a b third n wr f s m j (fun st v => hw m j st v hm) ha hb (readyRegs_congr m l _ _ hm hr)
    (by rw [e1, e2, hf m j hj hm hmj, e3]; exact (hx j hj).1) (by rw [e1, e2, hf m j hj hm hmj]; exact (hx j hj).2)
  rw [e1, e2, hf m j hj hm hmj] at h
  exact ⟨c, v, h⟩

theorem Line.ty_congr (m l : Line) (h : m.sameBut l) : m.ty = l.ty := by obtain ⟨_, _, _, rfl⟩ := h; rfl

theorem compute2_plain (i : Instr) (n : Fin 32) (a b : Src) (types : Line → Bool) (f : Line → Nat → DWord → DWord → Res) (s : State)
    (l : Line) (R : Nat → Res) (hI : IssuesAll s l) (h2 : plain2 l n a b) (ht : types l = true)
    (hf : ∀ m j, j ∈ l.issueThreads → m.sameBut l → m.thread j = l.thread j →
      f m j (plainVal l j l.ty.dbl a) (plainVal l j l.ty.dbl b) = R j)
    (hx : ∀ j ∈ l.issueThreads, enabledOf (l.fpst j) (R j).fl = 0 ∧ (R j).dr = false) :
    compute2 i (.r n) a b types f s = .next (s.afterLine l (l.afterThreads fun j t => t.result l.ty.dbl n (R j))) := by
  obtain ⟨ha, hb, hd, hoa, hob, hr⟩ := h2
  refine perThread_plain i l.ty.dbl l.ty.dbl l.ty.dbl a b (regs l.ty.dbl n) n _ types f _
    (fun s l j v => writeDst i s l j l.ty.dbl (.r n) v) s l R hI ?_ ht ha hb ?_ ?_ hr hf hx
  · simp [Line.okDst, hd, hoa, hob]
  · intro m j hm; rw [Line.ty_congr m l hm]; rfl
  · intro m j st v hm
    show writeDst i s (m.setFpst j st) j m.ty.dbl (.r n) v = _
    rw [Line.ty_congr m l hm]

end Sys2Proof.Machine
end

