-- ==== Sys2Proof/Laws/Shared.lean ====
section
/-!
SUPPORT. What the shared operations do, said once: looking a line up after a write of it, taking an exception, parking, finishing an
instruction, and a line-uniform instruction by what its function answers.
-/
namespace Sys2Proof.Machine

/-! ### Lines by reference -/

theorem State.line_ref (s : State) (r : LineRef) (l : Line) (h : s.line r = some l) : l.ref = r := by
  simpa using List.find?_some h

/-! ### Ending a `.take` run (R153) -/

/-- It enters at most one request into a bank's queue. -/
theorem State.endRun_eq (s : State) (l : Line) : ∃ q n, s.endRun l = { s with bankQ := s.bankQ ++ q, nextId := s.nextId + n } := by
  unfold State.endRun
  cases l.takeRun with
  | none => exact ⟨[], 0, by simp⟩
  | some run => exact ⟨_, 1, rfl⟩

@[simp] theorem State.endRun_lines (s : State) (l : Line) : (s.endRun l).lines = s.lines := by
  obtain ⟨q, n, h⟩ := s.endRun_eq l; rw [h]
@[simp] theorem State.endRun_line (s : State) (l : Line) (r : LineRef) : (s.endRun l).line r = s.line r := by
  simp [State.line]

/-! ### Taking an exception (R370, R371) -/

/-- What a store to device memory may change: the bytes, and what the slices, the L1s, the watches and the fault table keep of its line. -/
structure StoreParts where
  dev : Memory
  l1 : List L1Line
  l2 : List L2Line
  horizon : Vector Nat 64
  badDev : List Nat
  hits : List (Nat × List Byte × Nat)
  faultTab : List FaultEnt

/-- The machine with those parts. -/
def State.withStore (s : State) (p : StoreParts) : State :=
  { s with dev := p.dev, l1 := p.l1, l2 := p.l2, horizon := p.horizon, badDev := p.badDev, hits := p.hits, faultTab := p.faultTab }

theorem State.evictL2_eq (s : State) (out : List L2Line) : ∃ l2 hz, s.evictL2 out = { s with l2 := l2, horizon := hz } := by
  unfold State.evictL2
  induction out generalizing s with
  | nil => exact ⟨s.l2, s.horizon, rfl⟩
  | cons e out ih => exact ih _

/-- A device-scope store changes those parts alone. -/
theorem State.devWrite_eq (s : State) (c : Option Nat) (ca : Nat) (bs : List Byte) : ∃ p, s.devWrite c ca bs = s.withStore p := by
  unfold State.devWrite State.fitL2
  obtain ⟨l2, hz, h⟩ := State.evictL2_eq (s.setL2 { s.l2Rec (lineOf ca) with done := max (s.l2Rec (lineOf ca)).done (s.gwct ca) })
    ((s.setL2 { s.l2Rec (lineOf ca) with done := max (s.l2Rec (lineOf ca)).done (s.gwct ca) }).overfull (lineOf ca))
  simp only [h]
  exact ⟨⟨_, _, _, _, _, _, _⟩, rfl⟩

theorem State.physStore_eq (s : State) (part pa : Nat) (bs : List Byte) : ∃ p, s.physStore part pa bs = s.withStore p := by
  unfold State.physStore
  split
  · exact s.devWrite_eq none _ bs
  · exact ⟨⟨s.dev, s.l1, s.l2, s.horizon, s.badDev, s.hits, s.faultTab⟩, rfl⟩

/-- Step 2 writes at most the record's bytes in device memory and the SEQ of its handle in the line's partition; all else stays. -/
theorem State.putRecord_eq (s : State) (part : Nat) (r : Rec) : ∃ p ps, (s.putRecord part r).1 = { s.withStore p with parts := ps } ∧
    ∀ q, q ≠ part → ps.getD q (Partition.reset false) = s.part q := by
  unfold State.putRecord
  dsimp only
  split
  · obtain ⟨p, e⟩ := State.physStore_eq (s.updPart part fun p =>
      { p with seqs := tset 0 p.seqs r.handle ((tget 0 (s.part part).seqs r.handle + 1) % 65536) }) part ((s.part part).frbase + 64 * r.handle)
      (Rec.bytes { r with seq := (tget 0 (s.part part).seqs r.handle + 1) % 65536 })
    exact ⟨p, _, e, fun q hq => State.part_updPart_ne s part q _ hq.symm⟩
  · exact ⟨⟨s.dev, s.l1, s.l2, s.horizon, s.badDev, s.hits, s.faultTab⟩, s.parts, rfl, fun q _ => rfl⟩

/-- Counting a fault changes the registers of its partition alone. -/
theorem State.countFault_eq (s : State) (part cls : Nat) : ∃ ps, s.countFault part cls = { s with parts := ps } ∧
    ∀ q, q ≠ part → ps.getD q (Partition.reset false) = s.part q := by
  unfold State.countFault
  split
  · exact ⟨_, rfl, fun q hq => State.part_updPart_ne s part q (fun p => { p with tfcnt := p.tfcnt + 1 }) hq.symm⟩
  · exact ⟨s.parts, rfl, fun _ _ => rfl⟩

/-- The record of a new fault also counts in TFCNT. -/
theorem State.writeRecord_eq (s : State) (part : Nat) (r : Rec) : ∃ p ps, (s.writeRecord part r).1 = { s.withStore p with parts := ps } ∧
    ∀ q, q ≠ part → ps.getD q (Partition.reset false) = s.part q := by
  obtain ⟨ps, hc, hq⟩ := s.countFault_eq part (if r.reason ≠ 0 then 0 else if r.cls = 0x1F then 0x07 else r.cls)
  unfold State.writeRecord
  rw [hc]
  obtain ⟨p, ps', e, h⟩ := State.putRecord_eq { s with parts := ps } part r
  exact ⟨p, ps', e, fun q hn => (h q hn).trans (hq q hn)⟩

/-- What an exception's record leaves of the machine, the end of the line's `.take` run before it included. -/
theorem State.endRun_writeRecord_eq (s : State) (l : Line) (r : Rec) : ∃ q n p ps, ((s.endRun l).writeRecord l.part r).1 =
    { s.withStore p with bankQ := s.bankQ ++ q, nextId := s.nextId + n, parts := ps } ∧
    ∀ q, q ≠ l.part → ps.getD q (Partition.reset false) = s.part q := by
  obtain ⟨q, n, hq⟩ := s.endRun_eq l
  obtain ⟨p, ps, hw, hp⟩ := (s.endRun l).writeRecord_eq l.part r
  refine ⟨q, n, p, ps, by rw [hw, hq]; rfl, fun k h => (hp k h).trans ?_⟩
  rw [hq]; rfl

/-- The line stops at `pc` and `tri`, TRAPPED; the other lines, the sets, the grids, the queues, the package's registers, host memory
and the time stay. -/
theorem State.trapEntry_keeps (s : State) (l : Line) (f : FaultInfo) (pc : Word) (tri : Nat) (rpc word : Word) (rtri : Nat) :
    let t := s.trapEntry l f pc tri rpc word rtri
    t.time = s.time ∧ t.sets = s.sets ∧ t.grids = s.grids ∧ t.queues = s.queues ∧ t.pkg = s.pkg ∧ t.hostMem = s.hostMem ∧ t.fab = s.fab ∧
    t.flight = s.flight ∧ t.copyQ = s.copyQ ∧ t.drainQ = s.drainQ ∧ (∀ p, p ≠ l.part → t.part p = s.part p) ∧
    (∀ r, r ≠ l.ref → t.line r = s.line r) := by
  obtain ⟨q, n, p, ps, hw, hp⟩ := s.endRun_writeRecord_eq l (f.record l rtri rpc word (s.endRun l).time)
  have k := fun {α : Type} (g : State → α) => congrArg g hw
  refine ⟨k State.time, k State.sets, k State.grids, k State.queues, k State.pkg, k State.hostMem, k State.fab, k State.flight,
    k State.copyQ, k State.drainQ,
    fun p h => ?_, fun r h => ?_⟩
  · exact (congrArg (fun (u : State) => u.part p) hw).trans (hp p h)
  · refine Eq.trans ?_ (k (·.line r))
    unfold State.trapEntry
    exact State.line_setLine_ne _ _ r h

theorem State.trapEntry_line (s : State) (l : Line) (f : FaultInfo) (pc : Word) (tri : Nat) (rpc word : Word) (rtri : Nat)
    (h : s.line l.ref = some l) : ∃ m, (s.trapEntry l f pc tri rpc word rtri).line l.ref = some m ∧ m.status = .trapped ∧ m.pc = pc ∧
      m.tri = tri ∧ m.takeRun = none ∧ m.threads = l.threads ∧ m.k = l.k ∧ m.active = l.active := by
  obtain ⟨q, n, p, ps, hw, -⟩ := s.endRun_writeRecord_eq l (f.record l rtri rpc word (s.endRun l).time)
  refine ⟨_, State.line_setLine _ _ ?_, rfl, rfl, rfl, rfl, rfl, rfl, rfl⟩
  exact (congrArg (fun (u : State) => (u.line l.ref).isSome) hw).trans (congrArg Option.isSome h)

/-! ### The least of a list (R118) -/

/-- `leastBy` answers an element of the list whose key is at most that of every other. -/
theorem leastBy_least {α : Type} (key : α → Nat) (xs : List α) (x : α) (h : leastBy key xs = some x) : x ∈ xs ∧ ∀ y ∈ xs, key x ≤ key y := by
  induction xs generalizing x with
  | nil => simp [leastBy] at h
  | cons a r ih =>
    simp only [leastBy] at h
    split at h
    next hn =>
      obtain rfl := Option.some.inj h
      cases r with
      | nil => simp
      | cons b r => simp only [leastBy] at hn; split at hn <;> (try split at hn) <;> simp at hn
    next b hb =>
      obtain ⟨hm, hle⟩ := ih b hb
      split at h <;> obtain rfl := Option.some.inj h
      · exact ⟨by simp [hm], by simp only [List.mem_cons, forall_eq_or_imp]; exact ⟨by omega, hle⟩⟩
      · exact ⟨by simp, by
          simp only [List.mem_cons, forall_eq_or_imp]; exact ⟨le_refl _, fun y hy => by have := hle y hy; omega⟩⟩

/-! ### Faults that are decided before they are taken (R55) -/

/-- A fault is taken when every earlier write is confirmed; otherwise the line waits with it, and nothing else changes. -/
theorem stopAt_cases (s : State) (l : Line) (j : Nat) (word : Word) (f : FaultInfo) :
    (s.unconfirmed l.ref = false ∧ stopAt s l j word f = s.trapEntry l f l.pc j l.pc word j) ∨
    (s.unconfirmed l.ref = true ∧ stopAt s l j word f = s.setLine { l with status := .wait (.fault { f with tick := some s.time } word), tri := j }) := by
  unfold stopAt
  split
  next h => exact .inr ⟨h, rfl⟩
  next h => exact .inl ⟨by simpa using h, rfl⟩

/-! ### Writes of page tables (R405) -/

/-- A write names at most the line that it changes, numbered now, and only while the line's old contents are in use. -/
theorem State.tabRefs_cases (s : State) (ca : Nat) :
    (s.tabRefs ca = [] ∧ s.oldUse (lineOf ca, s.nextId) = false) ∨ (s.tabRefs ca = [(lineOf ca, s.nextId)] ∧ s.oldUse (lineOf ca, s.nextId) = true) := by
  by_cases h : s.oldUse (lineOf ca, s.nextId) = true
  · exact .inr ⟨by simp [State.tabRefs, h], h⟩
  · exact .inl ⟨by simp [State.tabRefs, h], by simpa using h⟩

/-- Writes that changed no line in use may complete at once. -/
@[simp] theorem State.tabDone_nil (s : State) : s.tabDone [] = true := rfl

/-! ### The order of a cycle (R47, R150, R179) -/

/-- Any requester may follow when the cycle has had none. -/
@[simp] theorem ascending_nil (r : List Nat) : ascending [] r = true := rfl

/-- An act without a requester happens in the state as it stands; one with a requester happens when that may follow the cycle's last, which it then
is, and otherwise not. -/
theorem State.inOrder_cases (s : State) (a : Act) :
    (s.requester a = none ∧ s.inOrder a = some s) ∨
    (∃ r, s.requester a = some r ∧ ascending s.inCycle r = true ∧ s.inOrder a = some { s with inCycle := r }) ∨
    (∃ r, s.requester a = some r ∧ ascending s.inCycle r = false ∧ s.inOrder a = none) := by
  unfold State.inOrder
  cases h : s.requester a with
  | none => exact .inl ⟨rfl, rfl⟩
  | some r =>
    cases hr : ascending s.inCycle r with
    | true => exact .inr (.inl ⟨r, rfl, hr, by simp [hr]⟩)
    | false => exact .inr (.inr ⟨r, rfl, hr, by simp [hr]⟩)

/-- In a cycle that has had no requester every act happens. -/
theorem State.inOrder_fresh (s : State) (a : Act) (h : s.inCycle = []) : (s.inOrder a).isSome = true := by
  obtain ⟨-, e⟩ | ⟨r, -, -, e⟩ | ⟨r, -, hr, -⟩ := s.inOrder_cases a
  · simp [e]
  · simp [e]
  · simp [h] at hr

/-! ### Arrivals (R17, R336) -/

/-- A packet that has arrived is performed by its meaning, or the state stays; performed it is only when the package takes part in its traffic. -/
theorem onArrival_cases (n : Nat) (ty : Nat → Bool) (ordered : Bool) (s : State) (f : State → Path × Arrival → State) :
    onArrival n ty ordered s f = .next s ∨
    ∃ x, s.arrivals[n]? = some x ∧ ty x.2.pkt.ty = true ∧ s.takesPart x.2 = true ∧ onArrival n ty ordered s f = .next (f s x) := by
  unfold onArrival
  split
  · exact .inl rfl
  next x h =>
    split
    next hc =>
      simp only [Bool.and_eq_true] at hc
      exact .inr ⟨x, h, hc.1.1, hc.1.2, rfl⟩
    · exact .inl rfl

/-- Where no write of its queue is open, a packet does not wait for one (R185). -/
theorem State.queueDone_quiet {s : State} {a : Arrival} (h : tget 0 s.fab.wrote a.srcQ ≤ s.time) (hl : s.fab.late = []) :
    s.queueDone a = true := by
  simp [State.queueDone, h, hl]
/-- Behind a write that is not complete a packet that may write waits (R185). -/
theorem State.queueDone_open {s : State} {a : Arrival} (h : s.time < tget 0 s.fab.wrote a.srcQ)
    (ht : a.pkt.ty ≤ 1 ∨ a.pkt.ty = 4 ∨ a.pkt.ty = 6) : s.queueDone a = false := by
  have hn : ¬ tget 0 s.fab.wrote a.srcQ ≤ s.time := by omega
  rcases ht with ht | ht | ht <;> simp [State.queueDone, hn, ht]
@[simp] theorem State.answer_dev (s : State) (a : Arrival) (p : Packet) (g : Nat) (refs : List TabRef) : (s.answer a p g refs).dev = s.dev := by
  unfold State.answer; split <;> rfl
@[simp] theorem State.answer_lines (s : State) (a : Arrival) (p : Packet) (g : Nat) (refs : List TabRef) : (s.answer a p g refs).lines = s.lines := by
  unfold State.answer; split <;> rfl

/-! ### Leaving an issue slot (R34) -/

@[simp] theorem State.offSlot_lines (s : State) (r : LineRef) : (s.offSlot r).lines = s.lines := rfl
@[simp] theorem State.offSlot_line (s : State) (r q : LineRef) : (s.offSlot r).line q = s.line q := rfl
@[simp] theorem State.offSlot_sets (s : State) (r : LineRef) : (s.offSlot r).sets = s.sets := rfl

/-! ### Waiting and finishing -/

theorem State.park_line (s : State) (l : Line) (w : Wait) (j : Nat) (h : (s.line l.ref).isSome) :
    (s.park l w j).line l.ref = some { l with status := .wait w, tri := j } := State.line_setLine s { l with status := .wait w, tri := j } h

theorem State.finish_line (s : State) (l : Line) (h : (s.line l.ref).isSome) :
    (s.finish l).line l.ref = some { l.next with takeRun := none } :=
  State.line_setLine (s.endRun l) { l.next with takeRun := none } ((congrArg Option.isSome (s.endRun_line l l.ref)).trans h)

/-! ### A line-uniform instruction, by what its function answers -/

variable {i : Instr} {ops ty : Line → Bool} {f : State → Line → TRes} {s : State} {l : Line}

theorem uniform_operands (h : Issues s l) (ho : ops l = false) : uniform i ops ty f s = .next (faultAt s l i 0 { cls := 0x03 }) := by
  simp [uniform, onLine_issues s l _ h, ho]
theorem uniform_types (h : Issues s l) (ho : ops l = true) (ht : ty l = false) :
    uniform i ops ty f s = .next (faultAt s l i 0 { cls := 0x01 }) := by
  simp [uniform, onLine_issues s l _ h, ho, ht]
theorem uniform_ok {s' : State} {l' : Line} (h : Issues s l) (ho : ops l = true) (ht : ty l = true) (hf : f s l = .ok s' l') :
    uniform i ops ty f s = .next (s'.finish l') := by
  simp [uniform, onLine_issues s l _ h, ho, ht, hf]
theorem uniform_wait {s' : State} {w : Wait} (h : Issues s l) (ho : ops l = true) (ht : ty l = true) (hf : f s l = .wait s' w) :
    uniform i ops ty f s = .next (s'.park l w 0) := by
  simp [uniform, onLine_issues s l _ h, ho, ht, hf]
theorem uniform_trap {g : FaultInfo} (h : Issues s l) (ho : ops l = true) (ht : ty l = true) (hf : f s l = .trap g) :
    uniform i ops ty f s = .next (faultAt s l i 0 g) := by
  simp [uniform, onLine_issues s l _ h, ho, ht, hf]
theorem uniform_done {s' : State} (h : Issues s l) (ho : ops l = true) (ht : ty l = true) (hf : f s l = .done s') :
    uniform i ops ty f s = .next s' := by
  simp [uniform, onLine_issues s l _ h, ho, ht, hf]

theorem faultAt_confirmed (j : Nat) (g : FaultInfo) (h : s.unconfirmed l.ref = false) :
    faultAt s l i j g = s.trapEntry l (pageMask i l j g) l.pc j l.pc (iword i) j := by simp [faultAt, stopAt, h]

end Sys2Proof.Machine
end

