-- ==== Sys2Proof/Laws/Table.lean ====
section
/-!
SUPPORT. Tables and memory: what a write leaves at its key and at every other key, and that every write keeps the canonical form.
-/
namespace Sys2Proof.Machine

section
variable {α : Type} [DecidableEq α]

theorem tget_tset_self (d : α) (t : Tab α) (n : Nat) (v : α) (lo : Nat) (h : tabWf d lo t = true) : tget d (tset d t n v) n = v := by
  induction t generalizing lo with
  | nil => by_cases hv : v = d <;> simp [tset, tget, hv]
  | cons e r ih =>
    obtain ⟨k, u⟩ := e
    simp only [tabWf, Bool.and_eq_true, decide_eq_true_eq] at h
    have hget : ∀ (r : Tab α) (m : Nat), n < m → tabWf d m r = true → tget d r n = d := by
      intro r
      induction r with
      | nil => intros; rfl
      | cons e r ih2 =>
        obtain ⟨k, u⟩ := e
        intro m hm hw
        simp only [tabWf, Bool.and_eq_true, decide_eq_true_eq] at hw
        have : k ≠ n := by omega
        simp only [tget, this, if_false]
        exact ih2 (k + 1) (by omega) hw.2
    unfold tset
    by_cases h1 : n < k
    · by_cases hv : v = d
      · have hk : k ≠ n := by omega
        simp only [h1, hv, if_true, tget, hk, if_false]
        exact hget r (k + 1) (by omega) h.2
      · simp [h1, hv, tget]
    · by_cases h2 : n = k
      · by_cases hv : v = d
        · simp only [h2, hv, lt_irrefl, if_true, if_false]
          exact h2 ▸ hget r (k + 1) (by omega) h.2
        · simp [h2, hv, tget]
      · have hk : k ≠ n := fun h => h2 h.symm
        simp only [h1, h2, if_false, tget, hk]
        exact ih (k + 1) h.2

theorem tget_tset_ne (d : α) (t : Tab α) (n m : Nat) (v : α) (h : m ≠ n) : tget d (tset d t n v) m = tget d t m := by
  induction t with
  | nil => by_cases hv : v = d <;> simp [tset, tget, hv, Ne.symm h]
  | cons e r ih =>
    obtain ⟨k, u⟩ := e
    unfold tset
    by_cases h1 : n < k
    · by_cases hv : v = d <;> simp [h1, hv, tget, Ne.symm h]
    · by_cases h2 : n = k
      · by_cases hv : v = d <;> simp [← h2, hv, tget, Ne.symm h]
      · simp only [h1, h2, if_false, tget]; split <;> simp [ih]

theorem tabWf_mono (d : α) (t : Tab α) (a b : Nat) (hab : a ≤ b) (h : tabWf d b t = true) : tabWf d a t = true := by
  cases t with
  | nil => rfl
  | cons e r =>
    obtain ⟨k, u⟩ := e
    simp only [tabWf, Bool.and_eq_true, decide_eq_true_eq] at h ⊢
    exact ⟨⟨by omega, h.1.2⟩, h.2⟩

theorem tabWf_tset (d : α) (t : Tab α) (lo n : Nat) (v : α) (hn : lo ≤ n) (h : tabWf d lo t = true) : tabWf d lo (tset d t n v) = true := by
  induction t generalizing lo with
  | nil => by_cases hv : v = d <;> simp [tset, tabWf, hv, hn]
  | cons e r ih =>
    obtain ⟨k, u⟩ := e
    simp only [tabWf, Bool.and_eq_true, decide_eq_true_eq] at h
    unfold tset
    by_cases h1 : n < k
    · by_cases hv : v = d
      · simp only [h1, hv, if_true, tabWf, Bool.and_eq_true, decide_eq_true_eq]; exact h
      · simp only [h1, hv, if_true, if_false, tabWf, Bool.and_eq_true, decide_eq_true_eq]
        exact ⟨⟨hn, hv⟩, ⟨by omega, h.1.2⟩, h.2⟩
    · by_cases h2 : n = k
      · by_cases hv : v = d
        · simp only [h2, hv, lt_irrefl, if_true, if_false]
          exact tabWf_mono d r lo (k + 1) (by omega) h.2
        · simp only [h2, hv, lt_irrefl, if_true, if_false, tabWf, Bool.and_eq_true, decide_eq_true_eq]
          exact ⟨⟨by omega, hv⟩, h.2⟩
      · simp only [h1, h2, if_false, tabWf, Bool.and_eq_true, decide_eq_true_eq]
        exact ⟨h.1, ih (k + 1) (by omega) h.2⟩

/-- Equal canonical tables: two that read the same at every key are the same list. -/
theorem tabWf_ext (d : α) (t u : Tab α) (lo : Nat) (ht : tabWf d lo t = true) (hu : tabWf d lo u = true)
    (h : ∀ n, tget d t n = tget d u n) : t = u := by
  have low : ∀ (r : Tab α) (m n : Nat), n < m → tabWf d m r = true → tget d r n = d := by
    intro r
    induction r with
    | nil => intros; rfl
    | cons e r ih =>
      obtain ⟨k, v⟩ := e
      intro m n hm hw
      simp only [tabWf, Bool.and_eq_true, decide_eq_true_eq] at hw
      have : k ≠ n := by omega
      simp only [tget, this, if_false]
      exact ih (k + 1) n (by omega) hw.2
  induction t generalizing lo u with
  | nil =>
    cases u with
    | nil => rfl
    | cons e r =>
      obtain ⟨k, v⟩ := e
      simp only [tabWf, Bool.and_eq_true, decide_eq_true_eq] at hu
      have := h k
      simp only [tget, if_true] at this
      exact absurd this.symm hu.1.2
  | cons e r ih =>
    obtain ⟨k, v⟩ := e
    simp only [tabWf, Bool.and_eq_true, decide_eq_true_eq] at ht
    cases u with
    | nil =>
      have := h k
      simp only [tget, if_true] at this
      exact absurd this ht.1.2
    | cons e' r' =>
      obtain ⟨k', v'⟩ := e'
      simp only [tabWf, Bool.and_eq_true, decide_eq_true_eq] at hu
      have hk : k = k' := by
        rcases Nat.lt_trichotomy k k' with hlt | heq | hgt
        · have h1 := h k
          simp only [tget, if_true, show k' ≠ k by omega, if_false] at h1
          rw [low r' (k' + 1) k (by omega) hu.2] at h1
          exact absurd h1 ht.1.2
        · exact heq
        · have h1 := h k'
          simp only [tget, if_true, show k ≠ k' by omega, if_false] at h1
          rw [low r (k + 1) k' (by omega) ht.2] at h1
          exact absurd h1.symm hu.1.2
      subst hk
      have hv : v = v' := by simpa [tget] using h k
      subst hv
      congr 1
      refine ih r' (k + 1) ht.2 hu.2 fun n => ?_
      by_cases hn : k = n
      · subst hn; rw [low r (k + 1) k (by omega) ht.2, low r' (k + 1) k (by omega) hu.2]
      · have h1 := h n
        simpa only [tget, hn, if_false] using h1

end

/-! ### Memory -/

theorem Memory.wf_nil : Memory.wf [] = true := rfl

theorem wf_writeByte (m : Memory) (a : Nat) (b : Byte) (h : Memory.wf m = true) : Memory.wf (writeByte m a b) = true :=
  tabWf_tset 0 m 0 a b (Nat.zero_le a) h

theorem wf_writeBytes (bs : List Byte) (m : Memory) (a : Nat) (h : Memory.wf m = true) : Memory.wf (writeBytes m a bs) = true := by
  induction bs generalizing m a with
  | nil => exact h
  | cons b bs ih => exact ih _ _ (wf_writeByte m a b h)

theorem readByte_writeByte (m : Memory) (a : Nat) (b : Byte) (h : Memory.wf m = true) : readByte (writeByte m a b) a = b :=
  tget_tset_self 0 m a b 0 h

theorem readByte_writeByte_ne (m : Memory) (a c : Nat) (b : Byte) (h : c ≠ a) : readByte (writeByte m a b) c = readByte m c :=
  tget_tset_ne 0 m a c b h

/-- A write of bytes changes no byte below or above them. -/
theorem readByte_writeBytes_out (bs : List Byte) (m : Memory) (a c : Nat) (h : c < a ∨ a + bs.length ≤ c) :
    readByte (writeBytes m a bs) c = readByte m c := by
  induction bs generalizing m a with
  | nil => rfl
  | cons b bs ih =>
    simp only [List.length_cons] at h
    rw [writeBytes, ih _ _ (by omega), readByte_writeByte_ne _ _ _ _ (by omega)]

/-- A written byte reads as it was written. -/
theorem readByte_writeBytes_in (bs : List Byte) (m : Memory) (a i : Nat) (hw : Memory.wf m = true) (h : i < bs.length) :
    readByte (writeBytes m a bs) (a + i) = bs.getD i 0 := by
  induction bs generalizing m a i with
  | nil => simp at h
  | cons b bs ih =>
    cases i with
    | zero =>
      simp only [writeBytes, Nat.add_zero, List.getD_cons_zero]
      rw [readByte_writeBytes_out _ _ _ _ (by omega), readByte_writeByte m a b hw]
    | succ i =>
      simp only [List.length_cons] at h
      simp only [writeBytes, List.getD_cons_succ]
      rw [show a + (i + 1) = a + 1 + i by omega]
      exact ih _ _ _ (wf_writeByte m a b hw) (by omega)

theorem readBytes_length (m : Memory) (a n : Nat) : (readBytes m a n).length = n := by
  induction n generalizing a with
  | zero => rfl
  | succ n ih => simp [readBytes, ih]

/-- What was written is read back. -/
theorem readBytes_writeBytes (bs : List Byte) (m : Memory) (a : Nat) (hw : Memory.wf m = true) :
    readBytes (writeBytes m a bs) a bs.length = bs := by
  induction bs generalizing m a with
  | nil => rfl
  | cons b bs ih =>
    simp only [writeBytes, List.length_cons, readBytes]
    rw [readByte_writeBytes_out _ _ _ _ (by omega), readByte_writeByte m a b hw, ih _ _ (wf_writeByte m a b hw)]

end Sys2Proof.Machine
end

