-- ==== Sys2Proof/Laws/Memory.lean ====
section
/-!
SUPPORT. Every memory operation keeps the canonical form of memory: stores to device memory and to host memory, records, bulk writes,
and the writes of a scratchpad window.
-/
namespace Sys2Proof.Machine

/-! ### Device memory and host memory -/

theorem State.fitL2_hostMem (s : State) (ln : Nat) : (s.fitL2 ln).hostMem = s.hostMem := by
  obtain ⟨l2, hz, e⟩ := s.evictL2_eq (s.overfull ln)
  unfold State.fitL2; rw [e]

theorem memWf_devWrite (s : State) (c : Option Nat) (ca : Nat) (bs : List Byte) (h : s.memWf) : (s.devWrite c ca bs).memWf :=
  ⟨wf_writeBytes bs s.dev ca h.1, (congrArg (Memory.wf · = true) (State.fitL2_hostMem _ _)).mpr h.2⟩

theorem memWf_hostWrite (s : State) (a : Nat) (bs : List Byte) (h : s.memWf) : State.memWf { s with hostMem := writeBytes s.hostMem a bs } :=
  ⟨h.1, wf_writeBytes bs s.hostMem a h.2⟩

theorem memWf_physStore (s : State) (part pa : Nat) (bs : List Byte) (h : s.memWf) : (s.physStore part pa bs).memWf := by
  unfold State.physStore
  split
  · exact memWf_devWrite s none _ bs h
  · exact h

theorem memWf_putRecord (s : State) (part : Nat) (r : Rec) (h : s.memWf) : (s.putRecord part r).1.memWf := by
  unfold State.putRecord
  dsimp only
  split
  · exact memWf_physStore _ part _ _ h
  · exact h

theorem memWf_writeRecord (s : State) (part : Nat) (r : Rec) (h : s.memWf) : (s.writeRecord part r).1.memWf := by
  obtain ⟨ps, hc, -⟩ := s.countFault_eq part (if r.reason ≠ 0 then 0 else if r.cls = 0x1F then 0x07 else r.cls)
  unfold State.writeRecord
  rw [hc]
  exact memWf_putRecord _ part r h

theorem memWf_engineRecord (s : State) (part : Nat) (r : Rec) (h : s.memWf) : (s.engineRecord part r).1.memWf :=
  memWf_writeRecord s part r h

theorem memWf_endRun (s : State) (l : Line) (h : s.memWf) : (s.endRun l).memWf := by
  obtain ⟨q, n, e⟩ := s.endRun_eq l
  rw [e]; exact h

theorem memWf_trapEntry (s : State) (l : Line) (f : FaultInfo) (pc : Word) (tri : Nat) (rpc word : Word) (rtri : Nat) (h : s.memWf) :
    (s.trapEntry l f pc tri rpc word rtri).memWf :=
  memWf_writeRecord (s.endRun l) l.part _ (memWf_endRun s l h)

theorem memWf_clearPending (s : State) (part handle : Nat) (h : s.memWf) : (s.clearPending part handle).memWf :=
  memWf_physStore s part _ _ h

theorem memWf_schedWrite (s : State) (p : Place) (bs : List Byte) (h : s.memWf) : (s.schedWrite p bs).1.memWf := by
  cases p with
  | dev ca => exact memWf_devWrite s none ca bs h
  | host a => exact memWf_hostWrite s a bs h
  | spad => exact h

/-- A fold of steps that each keep the form keeps it. -/
theorem memWf_foldl {α : Type} (f : State → α → State) (hf : ∀ s a, s.memWf → (f s a).memWf) (xs : List α) (s : State) (h : s.memWf) :
    (xs.foldl f s).memWf := by
  induction xs generalizing s with
  | nil => exact h
  | cons x xs ih => exact ih _ (hf s x h)

theorem memWf_bulkWrite (s : State) (ca : Nat) (bs : List Byte) (h : s.memWf) : (s.bulkWrite ca bs).memWf :=
  memWf_foldl _ (fun s x h => by split; exacts [memWf_devWrite s none _ _ h, h]) _ s h

theorem memWf_writeRuns (s : State) (ca mask : Nat) (data : List Byte) (h : s.memWf) : (s.writeRuns ca mask data).memWf :=
  memWf_foldl _ (fun s _ h => memWf_devWrite s none _ _ h) _ s h

/-! ### Scratchpad windows -/

theorem CSet.wf_write (c : CSet) (off : Nat) (bs : List Byte) (h : Memory.wf c.spad = true) : Memory.wf (c.write off bs).spad = true :=
  wf_writeBytes bs c.spad off h

/-- A change of one set keeps the form of every window when it keeps that set's. -/
theorem windows_updSet (s : State) (r : SetRef) (f : CSet → CSet) (hf : ∀ c, Memory.wf c.spad = true → Memory.wf (f c).spad = true)
    (h : ∀ c ∈ s.sets, Memory.wf c.spad = true) : ∀ c ∈ (s.updSet r f).sets, Memory.wf c.spad = true := by
  intro c hc
  simp only [State.updSet, List.mem_map] at hc
  obtain ⟨d, hd, rfl⟩ := hc
  split
  · exact hf d (h d hd)
  · exact h d hd

theorem windows_fill (s : State) (r : SetRef) (g : Nat) (h : ∀ c ∈ s.sets, Memory.wf c.spad = true) :
    ∀ c ∈ (s.fill r g).sets, Memory.wf c.spad = true :=
  windows_updSet s r (fun c => c.setFull g) (fun _ h => h) h

theorem windows_engineSpad (s : State) (r : SetRef) (off : Nat) (bs : List Byte) (h : ∀ c ∈ s.sets, Memory.wf c.spad = true) :
    ∀ c ∈ (s.engineSpad r off bs).sets, Memory.wf c.spad = true := by
  have hw := windows_updSet s r (fun c => c.write off bs) (fun c h => c.wf_write off bs h) h
  unfold State.engineSpad
  generalize s.updSet r (fun c => c.write off bs) = t at hw
  induction gransOf off bs.length generalizing t with
  | nil => exact hw
  | cons g gs ih => exact ih _ (windows_fill t r g hw)

/-- Bytes listed in rising order, the zeros left out, are in the canonical form: what a restore makes of a window's image. -/
theorem wf_filterMap (f : Nat → Byte) (n : Nat) :
    Memory.wf ((List.range n).filterMap fun i => if f i = 0 then none else some (i, f i)) = true := by
  have h : ∀ lo k, tabWf (0 : Byte) lo ((List.range' lo k).filterMap fun i => if f i = 0 then none else some (i, f i)) = true := by
    intro lo k
    induction k generalizing lo with
    | zero => rfl
    | succ k ih =>
      rw [List.range'_succ, List.filterMap_cons]
      by_cases h0 : f lo = 0
      · simp only [h0, if_true]
        exact tabWf_mono 0 _ lo (lo + 1) (by omega) (ih (lo + 1))
      · simp only [h0, if_false, tabWf, Bool.and_eq_true, decide_eq_true_eq]
        exact ⟨⟨le_refl lo, h0⟩, ih (lo + 1)⟩
  rw [List.range_eq_range']; exact h 0 n

end Sys2Proof.Machine
end

