-- ==== Sys2Proof/Laws/PerInstr.lean ====
section
/-!
SUPPORT. Per-instruction facts. Encoding: the word of an instruction has 32 bits (R60).
-/
namespace Sys2Proof

theorem Fld.code_lt (d : Fld) : d.code < 64 := by cases d <;> simp only [Fld.code] <;> omega
theorem Src.code_lt (a : Src) : a.code < 64 := by cases a <;> simp only [Src.code] <;> omega
theorem Src.pk_le (a : Src) : a.pk ≤ 1 := by cases a <;> simp [Src.pk]
theorem Src.ks_le (a : Src) : a.ks ≤ 1 := by cases a <;> simp [Src.ks]
theorem Ty.code_le (t : Ty) : t.code ≤ 17 := by cases t <;> decide
theorem Cmp.code_le (c : Cmp) : c.code ≤ 5 := by cases c <;> decide
theorem FCmp.code_le (c : FCmp) : c.code ≤ 7 := by cases c <;> decide
theorem Width.code_le (wd : Width) : wd.code ≤ 3 := by cases wd <;> decide
theorem TagMode.code_le (t : TagMode) : t.code ≤ 3 := by cases t <;> decide
theorem Scope.code_le (s : Scope) : s.code ≤ 4 := by cases s <;> decide
theorem AtomOp.code_le (o : AtomOp) : o.code ≤ 10 := by cases o <;> decide
theorem Ordering.code_le (o : Sys2Proof.Ordering) : o.code ≤ 3 := by cases o <;> decide
theorem HadScale.code_le (s : HadScale) : s.code ≤ 2 := by cases s <;> decide
theorem TidSel.code_le (s : TidSel) : s.code ≤ 3 := by cases s <;> decide
theorem relSub_le (rel : Option Scope) : relSub rel ≤ 3 := by
  rcases rel with _ | s
  · decide
  · cases s <;> decide
theorem storeMinor_le (rel : Option Scope) (fill : Bool) (wd : Width) : storeMinor rel fill wd ≤ 15 := by
  cases rel <;> cases fill <;> cases wd <;> simp [storeMinor, Width.code]

namespace Laws.Encoding

/-- The word of an instruction fits 32 bits. -/
def Statement (i : Instr) : Prop := ∀ n, encodeNat i = some n → n < 2 ^ 32

theorem ofWord {i : Instr} {n : Nat} (e : encodeNat i = some n) (l : n < 2 ^ 32) : Statement i :=
  fun _ h => Option.some.inj (e.symm.trans h) ▸ l
theorem ofStep {i : Instr} (e : encodeNat i = none) : Statement i := fun _ h => by rw [e] at h; cases h

theorem add (d : Fld) (a b : Src) : Statement (.add d a b) := by
  have := d.code_lt; have := a.code_lt; have := a.pk_le; have := a.ks_le; have := b.code_lt; have := b.pk_le; have := b.ks_le
  exact ofWord rfl (by simp only [encBinK, wordA]; omega)
theorem sub (d : Fld) (a b : Src) : Statement (.sub d a b) := by
  have := d.code_lt; have := a.code_lt; have := a.pk_le; have := a.ks_le; have := b.code_lt; have := b.pk_le; have := b.ks_le
  exact ofWord rfl (by simp only [encBinK, wordA]; omega)
theorem mul (d : Fld) (a b : Src) : Statement (.mul d a b) := by
  have := d.code_lt; have := a.code_lt; have := a.pk_le; have := a.ks_le; have := b.code_lt; have := b.pk_le; have := b.ks_le
  exact ofWord rfl (by simp only [encBinK, wordA]; omega)
theorem mulhi (d : Fld) (a b : Src) : Statement (.mulhi d a b) := by
  have := d.code_lt; have := a.code_lt; have := a.pk_le; have := a.ks_le; have := b.code_lt; have := b.pk_le; have := b.ks_le
  exact ofWord rfl (by simp only [encBinK, wordA]; omega)
theorem min (d : Fld) (a b : Src) : Statement (.min d a b) := by
  have := d.code_lt; have := a.code_lt; have := a.pk_le; have := a.ks_le; have := b.code_lt; have := b.pk_le; have := b.ks_le
  exact ofWord rfl (by simp only [encBinK, wordA]; omega)
theorem max (d : Fld) (a b : Src) : Statement (.max d a b) := by
  have := d.code_lt; have := a.code_lt; have := a.pk_le; have := a.ks_le; have := b.code_lt; have := b.pk_le; have := b.ks_le
  exact ofWord rfl (by simp only [encBinK, wordA]; omega)
theorem abs (d : Fld) (a : Src) : Statement (.abs d a) := by
  have := d.code_lt; have := a.code_lt; have := a.pk_le; have := a.ks_le
  exact ofWord rfl (by simp only [encUnK, wordA]; omega)
theorem sad (d : Fld) (a b : Src) : Statement (.sad d a b) := by
  have := d.code_lt; have := a.code_lt; have := a.pk_le; have := a.ks_le; have := b.code_lt; have := b.pk_le; have := b.ks_le
  exact ofWord rfl (by simp only [encBinK, wordA]; omega)
theorem and (d : Fld) (a b : Src) : Statement (.and d a b) := by
  have := d.code_lt; have := a.code_lt; have := a.pk_le; have := a.ks_le; have := b.code_lt; have := b.pk_le; have := b.ks_le
  exact ofWord rfl (by simp only [encBinK, wordA]; omega)
theorem or (d : Fld) (a b : Src) : Statement (.or d a b) := by
  have := d.code_lt; have := a.code_lt; have := a.pk_le; have := a.ks_le; have := b.code_lt; have := b.pk_le; have := b.ks_le
  exact ofWord rfl (by simp only [encBinK, wordA]; omega)
theorem xor (d : Fld) (a b : Src) : Statement (.xor d a b) := by
  have := d.code_lt; have := a.code_lt; have := a.pk_le; have := a.ks_le; have := b.code_lt; have := b.pk_le; have := b.ks_le
  exact ofWord rfl (by simp only [encBinK, wordA]; omega)
theorem andn (d : Fld) (a b : Src) : Statement (.andn d a b) := by
  have := d.code_lt; have := a.code_lt; have := a.pk_le; have := a.ks_le; have := b.code_lt; have := b.pk_le; have := b.ks_le
  exact ofWord rfl (by simp only [encBinK, wordA]; omega)
theorem orn (d : Fld) (a b : Src) : Statement (.orn d a b) := by
  have := d.code_lt; have := a.code_lt; have := a.pk_le; have := a.ks_le; have := b.code_lt; have := b.pk_le; have := b.ks_le
  exact ofWord rfl (by simp only [encBinK, wordA]; omega)
theorem xnor (d : Fld) (a b : Src) : Statement (.xnor d a b) := by
  have := d.code_lt; have := a.code_lt; have := a.pk_le; have := a.ks_le; have := b.code_lt; have := b.pk_le; have := b.ks_le
  exact ofWord rfl (by simp only [encBinK, wordA]; omega)
theorem shl (d : Fld) (a b : Src) : Statement (.shl d a b) := by
  have := d.code_lt; have := a.code_lt; have := a.pk_le; have := a.ks_le; have := b.code_lt; have := b.pk_le; have := b.ks_le
  exact ofWord rfl (by simp only [encBinK, wordA]; omega)
theorem shr (d : Fld) (a b : Src) : Statement (.shr d a b) := by
  have := d.code_lt; have := a.code_lt; have := a.pk_le; have := a.ks_le; have := b.code_lt; have := b.pk_le; have := b.ks_le
  exact ofWord rfl (by simp only [encBinK, wordA]; omega)
theorem sra (d : Fld) (a b : Src) : Statement (.sra d a b) := by
  have := d.code_lt; have := a.code_lt; have := a.pk_le; have := a.ks_le; have := b.code_lt; have := b.pk_le; have := b.ks_le
  exact ofWord rfl (by simp only [encBinK, wordA]; omega)
theorem rotl (d : Fld) (a b : Src) : Statement (.rotl d a b) := by
  have := d.code_lt; have := a.code_lt; have := a.pk_le; have := a.ks_le; have := b.code_lt; have := b.pk_le; have := b.ks_le
  exact ofWord rfl (by simp only [encBinK, wordA]; omega)
theorem popc (d : Fld) (a : Src) : Statement (.popc d a) := by
  have := d.code_lt; have := a.code_lt; have := a.pk_le; have := a.ks_le
  exact ofWord rfl (by simp only [encUnK, wordA]; omega)
theorem clz (d : Fld) (a : Src) : Statement (.clz d a) := by
  have := d.code_lt; have := a.code_lt; have := a.pk_le; have := a.ks_le
  exact ofWord rfl (by simp only [encUnK, wordA]; omega)
theorem brev (d : Fld) (a : Src) : Statement (.brev d a) := by
  have := d.code_lt; have := a.code_lt; have := a.pk_le; have := a.ks_le
  exact ofWord rfl (by simp only [encUnK, wordA]; omega)
theorem icmp (c : Cmp) (d : Fld) (a b : Src) : Statement (.icmp c d a b) := by
  have := c.code_le; have := d.code_lt; have := a.code_lt; have := a.pk_le; have := a.ks_le; have := b.code_lt; have := b.pk_le; have := b.ks_le
  exact ofWord rfl (by simp only [encBinK, wordA]; omega)
theorem fcmp (c : FCmp) (d : Fld) (a b : Src) : Statement (.fcmp c d a b) := by
  have := c.code_le; have := d.code_lt; have := a.code_lt; have := a.pk_le; have := a.ks_le; have := b.code_lt; have := b.pk_le; have := b.ks_le
  exact ofWord rfl (by simp only [encBinK, wordA]; omega)
theorem sel (inv : Bool) (p : Fin 8) (d : Fld) (a b : Src) : Statement (.sel inv p d a b) := by
  have := p.isLt; have := d.code_lt; have := a.code_lt; have := a.pk_le; have := a.ks_le; have := b.code_lt; have := b.pk_le; have := b.ks_le
  exact ofWord rfl (by cases inv <;> simp only [encBinK, wordA, Bool.false_eq_true, reduceIte] <;> omega)
theorem fadd (d : Fld) (a b : Src) : Statement (.fadd d a b) := by
  have := d.code_lt; have := a.code_lt; have := a.pk_le; have := a.ks_le; have := b.code_lt; have := b.pk_le; have := b.ks_le
  exact ofWord rfl (by simp only [encBinK, wordA]; omega)
theorem fsub (d : Fld) (a b : Src) : Statement (.fsub d a b) := by
  have := d.code_lt; have := a.code_lt; have := a.pk_le; have := a.ks_le; have := b.code_lt; have := b.pk_le; have := b.ks_le
  exact ofWord rfl (by simp only [encBinK, wordA]; omega)
theorem fmul (d : Fld) (a b : Src) : Statement (.fmul d a b) := by
  have := d.code_lt; have := a.code_lt; have := a.pk_le; have := a.ks_le; have := b.code_lt; have := b.pk_le; have := b.ks_le
  exact ofWord rfl (by simp only [encBinK, wordA]; omega)
theorem ffma (d : Fld) (a b : Src) : Statement (.ffma d a b) := by
  have := d.code_lt; have := a.code_lt; have := a.pk_le; have := a.ks_le; have := b.code_lt; have := b.pk_le; have := b.ks_le
  exact ofWord rfl (by simp only [encBinK, wordA]; omega)
theorem ffms (d : Fld) (a b : Src) : Statement (.ffms d a b) := by
  have := d.code_lt; have := a.code_lt; have := a.pk_le; have := a.ks_le; have := b.code_lt; have := b.pk_le; have := b.ks_le
  exact ofWord rfl (by simp only [encBinK, wordA]; omega)
theorem fmin (d : Fld) (a b : Src) : Statement (.fmin d a b) := by
  have := d.code_lt; have := a.code_lt; have := a.pk_le; have := a.ks_le; have := b.code_lt; have := b.pk_le; have := b.ks_le
  exact ofWord rfl (by simp only [encBinK, wordA]; omega)
theorem fmax (d : Fld) (a b : Src) : Statement (.fmax d a b) := by
  have := d.code_lt; have := a.code_lt; have := a.pk_le; have := a.ks_le; have := b.code_lt; have := b.pk_le; have := b.ks_le
  exact ofWord rfl (by simp only [encBinK, wordA]; omega)
theorem fabs (d : Fld) (a : Src) : Statement (.fabs d a) := by
  have := d.code_lt; have := a.code_lt; have := a.pk_le; have := a.ks_le
  exact ofWord rfl (by simp only [encUnK, wordA]; omega)
theorem fneg (d : Fld) (a : Src) : Statement (.fneg d a) := by
  have := d.code_lt; have := a.code_lt; have := a.pk_le; have := a.ks_le
  exact ofWord rfl (by simp only [encUnK, wordA]; omega)
theorem fclass (d : Fld) (a : Src) : Statement (.fclass d a) := by
  have := d.code_lt; have := a.code_lt; have := a.pk_le; have := a.ks_le
  exact ofWord rfl (by simp only [encUnK, wordA]; omega)
theorem fsgnj (d : Fld) (a b : Src) : Statement (.fsgnj d a b) := by
  have := d.code_lt; have := a.code_lt; have := a.pk_le; have := a.ks_le; have := b.code_lt; have := b.pk_le; have := b.ks_le
  exact ofWord rfl (by simp only [encBinK, wordA]; omega)
theorem rcp (d : Fld) (a : Src) : Statement (.rcp d a) := by
  have := d.code_lt; have := a.code_lt; have := a.pk_le; have := a.ks_le
  exact ofWord rfl (by simp only [encUnK, wordA]; omega)
theorem rsqrt (d : Fld) (a : Src) : Statement (.rsqrt d a) := by
  have := d.code_lt; have := a.code_lt; have := a.pk_le; have := a.ks_le
  exact ofWord rfl (by simp only [encUnK, wordA]; omega)
theorem exp2 (d : Fld) (a : Src) : Statement (.exp2 d a) := by
  have := d.code_lt; have := a.code_lt; have := a.pk_le; have := a.ks_le
  exact ofWord rfl (by simp only [encUnK, wordA]; omega)
theorem log2 (d : Fld) (a : Src) : Statement (.log2 d a) := by
  have := d.code_lt; have := a.code_lt; have := a.pk_le; have := a.ks_le
  exact ofWord rfl (by simp only [encUnK, wordA]; omega)
theorem sin (d : Fld) (a : Src) : Statement (.sin d a) := by
  have := d.code_lt; have := a.code_lt; have := a.pk_le; have := a.ks_le
  exact ofWord rfl (by simp only [encUnK, wordA]; omega)
theorem cos (d : Fld) (a : Src) : Statement (.cos d a) := by
  have := d.code_lt; have := a.code_lt; have := a.pk_le; have := a.ks_le
  exact ofWord rfl (by simp only [encUnK, wordA]; omega)
theorem cvt (t : Ty) (d : Fld) (a : Src) : Statement (.cvt t d a) := by
  have := t.code_le; have := d.code_lt; have := a.code_lt; have := a.pk_le; have := a.ks_le
  exact ofWord rfl (by simp only [encUn, wordA]; omega)
theorem qcvtE4m3 (d : Fld) (a : Src) : Statement (.qcvtE4m3 d a) := by
  have := d.code_lt; have := a.code_lt; have := a.pk_le; have := a.ks_le
  exact ofWord rfl (by simp only [encUn, wordA]; omega)
theorem qcvtE5m2 (d : Fld) (a : Src) : Statement (.qcvtE5m2 d a) := by
  have := d.code_lt; have := a.code_lt; have := a.pk_le; have := a.ks_le
  exact ofWord rfl (by simp only [encUn, wordA]; omega)
theorem qcvtE2m1 (d : Fld) (a : Fld) : Statement (.qcvtE2m1 d a) := by
  have := d.code_lt; have := a.code_lt
  exact ofWord rfl (by simp only [encA, wordA]; omega)
theorem qcvtI8 (d : Fld) (a b : Src) : Statement (.qcvtI8 d a b) := by
  have := d.code_lt; have := a.code_lt; have := a.pk_le; have := a.ks_le; have := b.code_lt; have := b.pk_le; have := b.ks_le
  exact ofWord rfl (by simp only [encBin, wordA]; omega)
theorem qcvtI4 (d : Fld) (a b : Src) : Statement (.qcvtI4 d a b) := by
  have := d.code_lt; have := a.code_lt; have := a.pk_le; have := a.ks_le; have := b.code_lt; have := b.pk_le; have := b.ks_le
  exact ofWord rfl (by simp only [encBin, wordA]; omega)
theorem srndE4m3 (d a b : Fld) : Statement (.srndE4m3 d a b) := by
  have := d.code_lt; have := a.code_lt; have := b.code_lt
  exact ofWord rfl (by simp only [encA, wordA]; omega)
theorem srndE5m2 (d a b : Fld) : Statement (.srndE5m2 d a b) := by
  have := d.code_lt; have := a.code_lt; have := b.code_lt
  exact ofWord rfl (by simp only [encA, wordA]; omega)
theorem srndE2m1 (d a b : Fld) : Statement (.srndE2m1 d a b) := by
  have := d.code_lt; have := a.code_lt; have := b.code_lt
  exact ofWord rfl (by simp only [encA, wordA]; omega)
theorem srndBf16 (d a b : Fld) : Statement (.srndBf16 d a b) := by
  have := d.code_lt; have := a.code_lt; have := b.code_lt
  exact ofWord rfl (by simp only [encA, wordA]; omega)
theorem srndF16 (d a b : Fld) : Statement (.srndF16 d a b) := by
  have := d.code_lt; have := a.code_lt; have := b.code_lt
  exact ofWord rfl (by simp only [encA, wordA]; omega)
theorem qrange (i4 : Bool) (d : Fld) (a b : Src) : Statement (.qrange i4 d a b) := by
  have := d.code_lt; have := a.code_lt; have := a.pk_le; have := a.ks_le; have := b.code_lt; have := b.pk_le; have := b.ks_le
  exact ofWord rfl (by cases i4 <;> simp only [encBin, wordA, Bool.false_eq_true, reduceIte] <;> omega)
theorem had32 (sc : HadScale) (d : Fld) (a : Fld) : Statement (.had32 sc d a) := by
  have := sc.code_le; have := d.code_lt; have := a.code_lt
  exact ofWord rfl (by simp only [encA, wordA]; omega)
theorem xseed (e : Fin 4) (a b : Fld) : Statement (.xseed e a b) := by
  have := e.isLt; have := a.code_lt; have := b.code_lt
  exact ofWord rfl (by simp only [encA, wordA]; omega)
theorem mov (d : Fld) (a : Src) : Statement (.mov d a) := by
  have := d.code_lt; have := a.code_lt; have := a.pk_le; have := a.ks_le
  exact ofWord rfl (by simp only [encUn, wordA]; omega)
theorem movxk (d a : Fld) : Statement (.movxk d a) := by
  have := d.code_lt; have := a.code_lt
  exact ofWord rfl (by simp only [encA, wordA]; omega)
theorem movkx (d a : Fld) : Statement (.movkx d a) := by
  have := d.code_lt; have := a.code_lt
  exact ofWord rfl (by simp only [encA, wordA]; omega)
theorem rdfp (d : Fld) : Statement (.rdfp d) := by
  have := d.code_lt
  exact ofWord rfl (by simp only [encA, wordA]; omega)
theorem wrfp (a : Fld) : Statement (.wrfp a) := by
  have := a.code_lt
  exact ofWord rfl (by simp only [encA, wordA]; omega)
theorem rdks (d : Fld) : Statement (.rdks d) := by
  have := d.code_lt
  exact ofWord rfl (by simp only [encA, wordA]; omega)
theorem wrks (a : Fld) : Statement (.wrks a) := by
  have := a.code_lt
  exact ofWord rfl (by simp only [encA, wordA]; omega)
theorem rdlm (d : Fld) : Statement (.rdlm d) := by
  have := d.code_lt
  exact ofWord rfl (by simp only [encA, wordA]; omega)
theorem p2x (d : Fld) : Statement (.p2x d) := by
  have := d.code_lt
  exact ofWord rfl (by simp only [encA, wordA]; omega)
theorem x2p (a : Fld) : Statement (.x2p a) := by
  have := a.code_lt
  exact ofWord rfl (by simp only [encA, wordA]; omega)
theorem rdtid (s : TidSel) (d : Fld) : Statement (.rdtid s d) := by
  have := s.code_le; have := d.code_lt
  exact ofWord rfl (by simp only [encA, wordA]; omega)
theorem rdtime (d : Fld) : Statement (.rdtime d) := by
  have := d.code_lt
  exact ofWord rfl (by simp only [encA, wordA]; omega)
theorem addi (d a : Fld) (imm : BitVec 14) : Statement (.addi d a imm) := by
  have := d.code_lt; have := a.code_lt; have := imm.isLt
  exact ofWord rfl (by simp only [encI]; omega)
theorem andi (d a : Fld) (imm : BitVec 14) : Statement (.andi d a imm) := by
  have := d.code_lt; have := a.code_lt; have := imm.isLt
  exact ofWord rfl (by simp only [encI]; omega)
theorem ori (d a : Fld) (imm : BitVec 14) : Statement (.ori d a imm) := by
  have := d.code_lt; have := a.code_lt; have := imm.isLt
  exact ofWord rfl (by simp only [encI]; omega)
theorem xori (d a : Fld) (imm : BitVec 14) : Statement (.xori d a imm) := by
  have := d.code_lt; have := a.code_lt; have := imm.isLt
  exact ofWord rfl (by simp only [encI]; omega)
theorem shli (d a : Fld) (n : Fin 64) : Statement (.shli d a n) := by
  have := d.code_lt; have := a.code_lt; have := n.isLt
  exact ofWord rfl (by simp only [encI]; omega)
theorem shri (d a : Fld) (n : Fin 64) : Statement (.shri d a n) := by
  have := d.code_lt; have := a.code_lt; have := n.isLt
  exact ofWord rfl (by simp only [encI]; omega)
theorem srai (d a : Fld) (n : Fin 64) : Statement (.srai d a n) := by
  have := d.code_lt; have := a.code_lt; have := n.isLt
  exact ofWord rfl (by simp only [encI]; omega)
theorem addki (d a : Fld) (imm : BitVec 14) : Statement (.addki d a imm) := by
  have := d.code_lt; have := a.code_lt; have := imm.isLt
  exact ofWord rfl (by simp only [encI]; omega)
theorem lui (d : Fld) (imm : BitVec 20) : Statement (.lui d imm) := by
  have := d.code_lt; have := imm.isLt
  exact ofWord rfl (by simp only [encK]; omega)
theorem luik (d : Fld) (imm : BitVec 20) : Statement (.luik d imm) := by
  have := d.code_lt; have := imm.isLt
  exact ofWord rfl (by simp only [encK]; omega)
theorem mode (imm : BitVec 16) : Statement (.mode imm) := by
  have := imm.isLt
  exact ofWord rfl (by simp only [encK]; omega)
theorem lds (t : TagMode) (wd : Width) (sx : Bool) (d a b : Fld) : Statement (.lds t wd sx d a b) := by
  have := t.code_le; have := wd.code_le; have := d.code_lt; have := a.code_lt; have := b.code_lt
  exact ofWord rfl (by cases sx <;> simp only [encA, wordA, Bool.false_eq_true, reduceIte] <;> omega)
theorem sts (rel : Option Scope) (fill : Bool) (wd : Width) (d a b : Fld) : Statement (.sts rel fill wd d a b) := by
  have := d.code_lt; have := a.code_lt; have := b.code_lt; have := storeMinor_le rel fill wd; have := relSub_le rel
  exact ofWord rfl (by simp only [encA, wordA]; omega)
theorem ldgal (t : TagMode) (wd : Width) (sx : Bool) (d a b : Fld) : Statement (.ldgal t wd sx d a b) := by
  have := t.code_le; have := wd.code_le; have := d.code_lt; have := a.code_lt; have := b.code_lt
  exact ofWord rfl (by cases sx <;> simp only [encA, wordA, Bool.false_eq_true, reduceIte] <;> omega)
theorem stgal (rel : Option Scope) (fill : Bool) (wd : Width) (d a b : Fld) : Statement (.stgal rel fill wd d a b) := by
  have := d.code_lt; have := a.code_lt; have := b.code_lt; have := storeMinor_le rel fill wd; have := relSub_le rel
  exact ofWord rfl (by simp only [encA, wordA]; omega)
theorem ldg (acq : Bool) (wd : Width) (sx : Bool) (d a b : Fld) : Statement (.ldg acq wd sx d a b) := by
  have := wd.code_le; have := d.code_lt; have := a.code_lt; have := b.code_lt
  exact ofWord rfl (by cases acq <;> cases sx <;> simp only [encA, wordA, Bool.false_eq_true, reduceIte] <;> omega)
theorem stg (rel : Option Scope) (wd : Width) (d a b : Fld) : Statement (.stg rel wd d a b) := by
  have := d.code_lt; have := a.code_lt; have := b.code_lt; have := storeMinor_le rel false wd; have := relSub_le rel
  exact ofWord rfl (by simp only [encA, wordA]; omega)
theorem ldp (acq : Bool) (wd : Width) (sx : Bool) (d a b : Fld) : Statement (.ldp acq wd sx d a b) := by
  have := wd.code_le; have := d.code_lt; have := a.code_lt; have := b.code_lt
  exact ofWord rfl (by cases acq <;> cases sx <;> simp only [encA, wordA, Bool.false_eq_true, reduceIte] <;> omega)
theorem stp (rel : Option Scope) (wd : Width) (d a b : Fld) : Statement (.stp rel wd d a b) := by
  have := d.code_lt; have := a.code_lt; have := b.code_lt; have := storeMinor_le rel false wd; have := relSub_le rel
  exact ofWord rfl (by simp only [encA, wordA]; omega)
theorem ats (op : AtomOp) (o : Ordering) (d a b : Fld) : Statement (.ats op o d a b) := by
  have := op.code_le; have := o.code_le; have := d.code_lt; have := a.code_lt; have := b.code_lt
  exact ofWord rfl (by simp only [encA, wordA]; omega)
theorem atgal (op : AtomOp) (o : Ordering) (d a b : Fld) : Statement (.atgal op o d a b) := by
  have := op.code_le; have := o.code_le; have := d.code_lt; have := a.code_lt; have := b.code_lt
  exact ofWord rfl (by simp only [encA, wordA]; omega)
theorem atg (op : AtomOp) (o : Ordering) (d a b : Fld) : Statement (.atg op o d a b) := by
  have := op.code_le; have := o.code_le; have := d.code_lt; have := a.code_lt; have := b.code_lt
  exact ofWord rfl (by simp only [encA, wordA]; omega)
theorem atp (op : AtomOp) (o : Ordering) (d a b : Fld) : Statement (.atp op o d a b) := by
  have := op.code_le; have := o.code_le; have := d.code_lt; have := a.code_lt; have := b.code_lt
  exact ofWord rfl (by simp only [encA, wordA]; omega)
theorem redp (d a b : Fld) : Statement (.redp d a b) := by
  have := d.code_lt; have := a.code_lt; have := b.code_lt
  exact ofWord rfl (by simp only [encA, wordA]; omega)
theorem fdrain (a : Fld) : Statement (.fdrain a) := by
  have := a.code_lt
  exact ofWord rfl (by simp only [encA, wordA]; omega)
theorem sqstat (d a : Fld) : Statement (.sqstat d a) := by
  have := d.code_lt; have := a.code_lt
  exact ofWord rfl (by simp only [encA, wordA]; omega)
theorem fence (s : Scope) : Statement (.fence s) := by
  have := s.code_le
  exact ofWord rfl (by simp only [encK]; omega)
theorem qfence (m : BitVec 6) : Statement (.qfence m) := by
  have := m.isLt
  exact ofWord rfl (by simp only [encK]; omega)
theorem ifence : Statement (.ifence) := by
  exact ofWord rfl (by simp only [encK]; omega)
theorem barinit (gal : Bool) (a b : Fld) : Statement (.barinit gal a b) := by
  have := a.code_lt; have := b.code_lt
  exact ofWord rfl (by cases gal <;> simp only [encA, wordA, Bool.false_eq_true, reduceIte] <;> omega)
theorem bararrive (gal : Bool) (a b : Fld) : Statement (.bararrive gal a b) := by
  have := a.code_lt; have := b.code_lt
  exact ofWord rfl (by cases gal <;> simp only [encA, wordA, Bool.false_eq_true, reduceIte] <;> omega)
theorem barwait (gal : Bool) (d a : Fld) : Statement (.barwait gal d a) := by
  have := d.code_lt; have := a.code_lt
  exact ofWord rfl (by cases gal <;> simp only [encA, wordA, Bool.false_eq_true, reduceIte] <;> omega)
theorem barinv (gal : Bool) (a : Fld) : Statement (.barinv gal a) := by
  have := a.code_lt
  exact ofWord rfl (by cases gal <;> simp only [encA, wordA, Bool.false_eq_true, reduceIte] <;> omega)
theorem waita (gal : Bool) (a : Fld) : Statement (.waita gal a) := by
  have := a.code_lt
  exact ofWord rfl (by cases gal <;> simp only [encA, wordA, Bool.false_eq_true, reduceIte] <;> omega)
theorem copy (n : Fin 4) (d a : Fld) : Statement (.copy n d a) := by
  have := n.isLt; have := d.code_lt; have := a.code_lt
  exact ofWord rfl (by simp only [encA, wordA]; omega)
theorem patset (a : Fld) (slot : Fin 32) : Statement (.patset a slot) := by
  have := a.code_lt; have := slot.isLt
  exact ofWord rfl (by simp only [encA, wordA]; omega)
theorem sbind (wr : Bool) (d : Fld) (slot : Fin 32) : Statement (.sbind wr d slot) := by
  have := d.code_lt; have := slot.isLt
  exact ofWord rfl (by cases wr <;> simp only [encA, wordA, Bool.false_eq_true, reduceIte] <;> omega)
theorem seos (d a : Fld) : Statement (.seos d a) := by
  have := d.code_lt; have := a.code_lt
  exact ofWord rfl (by simp only [encA, wordA]; omega)
theorem srel (a : Fld) : Statement (.srel a) := by
  have := a.code_lt
  exact ofWord rfl (by simp only [encA, wordA]; omega)
theorem spos (d a : Fld) : Statement (.spos d a) := by
  have := d.code_lt; have := a.code_lt
  exact ofWord rfl (by simp only [encA, wordA]; omega)
theorem sskip (a b : Fld) : Statement (.sskip a b) := by
  have := a.code_lt; have := b.code_lt
  exact ofWord rfl (by simp only [encA, wordA]; omega)
theorem setstair (a : Fld) : Statement (.setstair a) := by
  have := a.code_lt
  exact ofWord rfl (by simp only [encA, wordA]; omega)
theorem mloadb (a b : Fld) : Statement (.mloadb a b) := by
  have := a.code_lt; have := b.code_lt
  exact ofWord rfl (by simp only [encA, wordA]; omega)
theorem mswap : Statement (.mswap) := by
  exact ofWord rfl (by simp only [encA, wordA]; omega)
theorem mma (t : Fin 4) (a b : Fld) : Statement (.mma t a b) := by
  have := t.isLt; have := a.code_lt; have := b.code_lt
  exact ofWord rfl (by simp only [encA, wordA]; omega)
theorem mmaPort (t : Fin 4) (a b : Fld) : Statement (.mmaPort t a b) := by
  have := t.isLt; have := a.code_lt; have := b.code_lt
  exact ofWord rfl (by simp only [encA, wordA]; omega)
theorem mmas (a b : Fld) : Statement (.mmas a b) := by
  have := a.code_lt; have := b.code_lt
  exact ofWord rfl (by simp only [encA, wordA]; omega)
theorem mdrain (t : Fin 4) (a b : Fld) : Statement (.mdrain t a b) := by
  have := t.isLt; have := a.code_lt; have := b.code_lt
  exact ofWord rfl (by simp only [encA, wordA]; omega)
theorem mzero (t : Fin 4) : Statement (.mzero t) := by
  have := t.isLt
  exact ofWord rfl (by simp only [encA, wordA]; omega)
theorem mstat (clr : Bool) (d : Fld) (m : Fin 32) : Statement (.mstat clr d m) := by
  have := d.code_lt; have := m.isLt
  exact ofWord rfl (by cases clr <;> simp only [encA, wordA, Bool.false_eq_true, reduceIte] <;> omega)
theorem qdset (a : Fld) : Statement (.qdset a) := by
  have := a.code_lt
  exact ofWord rfl (by simp only [encA, wordA]; omega)
theorem jmp (o : BitVec 26) : Statement (.jmp o) := by
  have := o.isLt
  exact ofWord rfl (by omega)
theorem call (o : BitVec 26) : Statement (.call o) := by
  have := o.isLt
  exact ofWord rfl (by omega)
theorem rcv (o : BitVec 26) : Statement (.rcv o) := by
  have := o.isLt
  exact ofWord rfl (by omega)
theorem br (p : Fin 8) (inv : Bool) (o : BitVec 22) : Statement (.br p inv o) := by
  have := p.isLt; have := o.isLt
  exact ofWord rfl (by cases inv <;> simp only [Bool.false_eq_true, reduceIte] <;> omega)
theorem jr (a : Fld) : Statement (.jr a) := by
  have := a.code_lt
  exact ofWord rfl (by simp only [encA, wordA]; omega)
theorem callr (d a : Fld) : Statement (.callr d a) := by
  have := d.code_lt; have := a.code_lt
  exact ofWord rfl (by simp only [encA, wordA]; omega)
theorem exit : Statement (.exit) := by
  exact ofWord rfl (by simp only [encA, wordA]; omega)
theorem kill : Statement (.kill) := by
  exact ofWord rfl (by simp only [encA, wordA]; omega)
theorem yield : Statement (.yield) := by
  exact ofWord rfl (by simp only [encA, wordA]; omega)
theorem grow (d a : Fld) : Statement (.grow d a) := by
  have := d.code_lt; have := a.code_lt
  exact ofWord rfl (by simp only [encA, wordA]; omega)
theorem nop : Statement (.nop) := by
  exact ofWord rfl (by simp only [encA, wordA]; omega)
theorem trap (code : Fin 32) : Statement (.trap code) := by
  have := code.isLt
  exact ofWord rfl (by simp only [encA, wordA]; omega)
theorem scall (service : Fin 32) : Statement (.scall service) := by
  have := service.isLt
  exact ofWord rfl (by simp only [encA, wordA]; omega)
theorem kadd (d a b : Fld) : Statement (.kadd d a b) := by
  have := d.code_lt; have := a.code_lt; have := b.code_lt
  exact ofWord rfl (by simp only [encA, wordA]; omega)
theorem ksub (d a b : Fld) : Statement (.ksub d a b) := by
  have := d.code_lt; have := a.code_lt; have := b.code_lt
  exact ofWord rfl (by simp only [encA, wordA]; omega)
theorem kmul (d a b : Fld) : Statement (.kmul d a b) := by
  have := d.code_lt; have := a.code_lt; have := b.code_lt
  exact ofWord rfl (by simp only [encA, wordA]; omega)
theorem kand (d a b : Fld) : Statement (.kand d a b) := by
  have := d.code_lt; have := a.code_lt; have := b.code_lt
  exact ofWord rfl (by simp only [encA, wordA]; omega)
theorem kor (d a b : Fld) : Statement (.kor d a b) := by
  have := d.code_lt; have := a.code_lt; have := b.code_lt
  exact ofWord rfl (by simp only [encA, wordA]; omega)
theorem kxor (d a b : Fld) : Statement (.kxor d a b) := by
  have := d.code_lt; have := a.code_lt; have := b.code_lt
  exact ofWord rfl (by simp only [encA, wordA]; omega)
theorem kshl (d a b : Fld) : Statement (.kshl d a b) := by
  have := d.code_lt; have := a.code_lt; have := b.code_lt
  exact ofWord rfl (by simp only [encA, wordA]; omega)
theorem kshr (d a b : Fld) : Statement (.kshr d a b) := by
  have := d.code_lt; have := a.code_lt; have := b.code_lt
  exact ofWord rfl (by simp only [encA, wordA]; omega)
theorem ksra (d a b : Fld) : Statement (.ksra d a b) := by
  have := d.code_lt; have := a.code_lt; have := b.code_lt
  exact ofWord rfl (by simp only [encA, wordA]; omega)
theorem kmin (d a b : Fld) : Statement (.kmin d a b) := by
  have := d.code_lt; have := a.code_lt; have := b.code_lt
  exact ofWord rfl (by simp only [encA, wordA]; omega)
theorem kmax (d a b : Fld) : Statement (.kmax d a b) := by
  have := d.code_lt; have := a.code_lt; have := b.code_lt
  exact ofWord rfl (by simp only [encA, wordA]; omega)
theorem prd (d a : Fld) : Statement (.prd d a) := by
  have := d.code_lt; have := a.code_lt
  exact ofWord rfl (by simp only [encA, wordA]; omega)
theorem pwr (a b : Fld) : Statement (.pwr a b) := by
  have := a.code_lt; have := b.code_lt
  exact ofWord rfl (by simp only [encA, wordA]; omega)
theorem cxrd (d a : Fld) : Statement (.cxrd d a) := by
  have := d.code_lt; have := a.code_lt
  exact ofWord rfl (by simp only [encA, wordA]; omega)
theorem cxwr (a b : Fld) : Statement (.cxwr a b) := by
  have := a.code_lt; have := b.code_lt
  exact ofWord rfl (by simp only [encA, wordA]; omega)
theorem lresume (d a : Fld) (disp : Fin 4) : Statement (.lresume d a disp) := by
  have := d.code_lt; have := a.code_lt; have := disp.isLt
  exact ofWord rfl (by simp only [encA, wordA]; omega)
theorem ftset (a b : Fld) : Statement (.ftset a b) := by
  have := a.code_lt; have := b.code_lt
  exact ofWord rfl (by simp only [encA, wordA]; omega)
theorem ftcommit (a b : Fld) : Statement (.ftcommit a b) := by
  have := a.code_lt; have := b.code_lt
  exact ofWord rfl (by simp only [encA, wordA]; omega)
theorem rgset (a b : Fld) : Statement (.rgset a b) := by
  have := a.code_lt; have := b.code_lt
  exact ofWord rfl (by simp only [encA, wordA]; omega)
theorem rgphase (a b : Fld) : Statement (.rgphase a b) := by
  have := a.code_lt; have := b.code_lt
  exact ofWord rfl (by simp only [encA, wordA]; omega)
theorem spreempt (d a : Fld) : Statement (.spreempt d a) := by
  have := d.code_lt; have := a.code_lt
  exact ofWord rfl (by simp only [encA, wordA]; omega)
theorem qctl (d a : Fld) (op : Fin 4) : Statement (.qctl d a op) := by
  have := d.code_lt; have := a.code_lt; have := op.isLt
  exact ofWord rfl (by simp only [encA, wordA]; omega)
theorem pendingBitSet (handle : Nat) : Statement (.pendingBitSet handle) := ofStep rfl
theorem instructionFetch (r : LineRef) : Statement (.instructionFetch r) := ofStep rfl
theorem starvation (r : LineRef) : Statement (.starvation r) := ofStep rfl
theorem mmaIssue (r : LineRef) : Statement (.mmaIssue r) := ofStep rfl
theorem mmaComplete (s : SetRef) : Statement (.mmaComplete s) := ofStep rfl
theorem mloadbComplete (s : SetRef) : Statement (.mloadbComplete s) := ofStep rfl
theorem matrixQueueEffect (core : Nat) : Statement (.matrixQueueEffect core) := ofStep rfl
theorem drainOperation (core : Nat) : Statement (.drainOperation core) := ofStep rfl
theorem mmasOperation (core : Nat) : Statement (.mmasOperation core) := ofStep rfl
theorem blockWrite (r : LineRef) : Statement (.blockWrite r) := ofStep rfl
theorem bankServe (core bank : Nat) : Statement (.bankServe core bank) := ofStep rfl
theorem slicePerform (id : Nat) : Statement (.slicePerform id) := ofStep rfl
theorem acknowledgementReturn (id : Nat) : Statement (.acknowledgementReturn id) := ofStep rfl
theorem loadReturn (id : Nat) : Statement (.loadReturn id) := ofStep rfl
theorem leaseExpiry (core line : Nat) : Statement (.leaseExpiry core line) := ofStep rfl
theorem l1Evict (core line : Nat) : Statement (.l1Evict core line) := ofStep rfl
theorem l2Evict (line : Nat) : Statement (.l2Evict line) := ofStep rfl
theorem writeConfirmed (id : Nat) : Statement (.writeConfirmed id) := ofStep rfl
theorem releasePerform (id : Nat) : Statement (.releasePerform id) := ofStep rfl
theorem fenceComplete (r : LineRef) : Statement (.fenceComplete r) := ofStep rfl
theorem copyStart (core queue : Nat) : Statement (.copyStart core queue) := ofStep rfl
theorem copyElement (core queue : Nat) : Statement (.copyElement core queue) := ofStep rfl
theorem copyComplete (core queue : Nat) : Statement (.copyComplete core queue) := ofStep rfl
theorem walk (id : Nat) : Statement (.walk id) := ofStep rfl
theorem tlbLeaseExpiry (n : Nat) : Statement (.tlbLeaseExpiry n) := ofStep rfl
theorem slotStart (part : Nat) : Statement (.slotStart part) := ofStep rfl
theorem flitSend (port : Nat) : Statement (.flitSend port) := ofStep rfl
theorem flitReceive (port : Nat) (bytes : List Byte) : Statement (.flitReceive port bytes) := ofStep rfl
theorem write (n : Nat) : Statement (.write n) := ofStep rfl
theorem maskedWrite (n : Nat) : Statement (.maskedWrite n) := ofStep rfl
theorem readRequest (n : Nat) : Statement (.readRequest n) := ofStep rfl
theorem readCompletion (n : Nat) : Statement (.readCompletion n) := ofStep rfl
theorem atomic (n : Nat) : Statement (.atomic n) := ofStep rfl
theorem atomicResult (n : Nat) : Statement (.atomicResult n) := ofStep rfl
theorem reductionContribution (n : Nat) : Statement (.reductionContribution n) := ofStep rfl
theorem acknowledgement (n : Nat) : Statement (.acknowledgement n) := ofStep rfl
theorem refusal (n : Nat) : Statement (.refusal n) := ofStep rfl
theorem reservedTypePacket (n : Nat) : Statement (.reservedTypePacket n) := ofStep rfl
theorem holdExpiry (n : Nat) : Statement (.holdExpiry n) := ofStep rfl
theorem resend (n : Nat) : Statement (.resend n) := ofStep rfl
theorem drainMarkerAck (n : Nat) : Statement (.drainMarkerAck n) := ofStep rfl
theorem holdPoint (part : Nat) : Statement (.holdPoint part) := ofStep rfl
theorem darkPhase (part : Nat) : Statement (.darkPhase part) := ofStep rfl
theorem tableEpoch (part : Nat) : Statement (.tableEpoch part) := ofStep rfl
theorem relockFailure (port : Nat) : Statement (.relockFailure port) := ofStep rfl
theorem portModeSwitch (port : Nat) : Statement (.portModeSwitch port) := ofStep rfl
theorem keySwitch (part peer : Nat) : Statement (.keySwitch part peer) := ofStep rfl
theorem tailWrite (q : Nat) (v : Word) : Statement (.tailWrite q v) := ofStep rfl
theorem errClear (q : Nat) : Statement (.errClear q) := ofStep rfl
theorem packetRead (q : Nat) : Statement (.packetRead q) := ofStep rfl
theorem dependenceRead (q : Nat) : Statement (.dependenceRead q) := ofStep rfl
theorem dependencePoll (q : Nat) : Statement (.dependencePoll q) := ofStep rfl
theorem startTimestamp (q : Nat) : Statement (.startTimestamp q) := ofStep rfl
theorem placement (die : Nat) : Statement (.placement die) := ofStep rfl
theorem linesResident (s : SetRef) : Statement (.linesResident s) := ofStep rfl
theorem contextSave (s : SetRef) : Statement (.contextSave s) := ofStep rfl
theorem contextRestore (s : SetRef) : Statement (.contextRestore s) := ofStep rfl
theorem completionRecord (g : Nat) : Statement (.completionRecord g) := ofStep rfl
theorem completionSignal (g : Nat) : Statement (.completionSignal g) := ofStep rfl
theorem signalPacket (q : Nat) : Statement (.signalPacket q) := ofStep rfl
theorem hostWrite (p : HostPlace) (data : List Byte) (posted : Bool) : Statement (.hostWrite p data posted) := ofStep rfl
theorem hostRead (p : HostPlace) (len : Nat) : Statement (.hostRead p len) := ofStep rfl
theorem hostCxrd (part : Nat) : Statement (.hostCxrd part) := ofStep rfl
theorem hostCxwr (part : Nat) : Statement (.hostCxwr part) := ofStep rfl
theorem hostLresume (part : Nat) : Statement (.hostLresume part) := ofStep rfl
theorem hostSpreempt (part : Nat) : Statement (.hostSpreempt part) := ofStep rfl
theorem hostQctl (part : Nat) : Statement (.hostQctl part) := ofStep rfl
theorem cmdopInvalid (part : Nat) (op : Fin 16) : Statement (.cmdopInvalid part op) := ofStep rfl
theorem frenWrite (part : Nat) (v : Word) : Statement (.frenWrite part v) := ofStep rfl
theorem kbindWrite (part : Nat) (v : Word) : Statement (.kbindWrite part v) := ofStep rfl
theorem pmodeWrite (part : Nat) (v : Word) : Statement (.pmodeWrite part v) := ofStep rfl
theorem penWrite (part : Nat) (v : Word) : Statement (.penWrite part v) := ofStep rfl
theorem registerWrite (part : Nat) (bar2 : Bool) (off : Nat) (v : Word) : Statement (.registerWrite part bar2 off v) := ofStep rfl
theorem extend (part : Nat) (v : Word) : Statement (.extend part v) := ofStep rfl
theorem quote (part : Nat) (v : Word) : Statement (.quote part v) := ofStep rfl
theorem newkey (part : Nat) (v : Word) : Statement (.newkey part v) := ofStep rfl
theorem agree (part : Nat) (v : Word) : Statement (.agree part v) := ofStep rfl
theorem revoke (part : Nat) (v : Word) : Statement (.revoke part v) := ofStep rfl
theorem cert (part : Nat) (v : Word) : Statement (.cert part v) := ofStep rfl
theorem bringupStep (ok : Bool) (data : List Byte) : Statement (.bringupStep ok data) := ofStep rfl
theorem freeWrite (v : Word) : Statement (.freeWrite v) := ofStep rfl
theorem domidWrite (v : Word) : Statement (.domidWrite v) := ofStep rfl
theorem syncMessage (offset : Int) : Statement (.syncMessage offset) := ofStep rfl
theorem powerCheck (milliwatts hottest : Nat) : Statement (.powerCheck milliwatts hottest) := ofStep rfl
theorem thermalTrip (hottest : Nat) : Statement (.thermalTrip hottest) := ofStep rfl
theorem shut (v : Word) : Statement (.shut v) := ofStep rfl
theorem illegalInstruction (w : Word) : Statement (.illegalInstruction w) := ofStep rfl
theorem firmwareRequest (q : FwRequest) : Statement (.firmwareRequest q) := ofStep rfl
theorem powerOnSecond (temps : Nat × Nat) (fixes : List Nat) : Statement (.powerOnSecond temps fixes) := ofStep rfl
theorem powerOn : Statement (.powerOn) := ofStep rfl
theorem syncTimeout : Statement (.syncTimeout) := ofStep rfl
theorem recordWrite : Statement (.recordWrite) := ofStep rfl
theorem recordWriteDone : Statement (.recordWriteDone) := ofStep rfl
theorem powerFail : Statement (.powerFail) := ofStep rfl

end Laws.Encoding

end Sys2Proof
end

