-- ==== Sys2Proof/Tests/Slice0.lean ====
section
/-!
SUPPORT. Tests: terms that the checks of WellFormed refuse; words written out from the encoding tables of the specification;
single steps whose results the specification's examples or its formulas give; and, for each statement with hypotheses, states and
operands that meet them.
-/
namespace Sys2Proof.Tests
open Sys2Proof Sys2Proof.Machine
set_option Elab.async false

/-! ### Well-formedness: for each check a term that it refuses -/

theorem test_wf_cvtType : Instr.wf (.cvt .e4m3 (.r 1) (.x 2)) = false := by decide
theorem test_wf_cvtK : Instr.wf (.cvt .f32 (.r 1) (.k 2)) = false := by decide
theorem test_wf_movK : Instr.wf (.mov (.r 1) (.k 2)) = false := by decide
theorem test_wf_qcvtK : Instr.wf (.qcvtE4m3 (.r 1) (.k 2)) = false := by decide
theorem test_wf_qcvtI8K : Instr.wf (.qcvtI8 (.r 1) (.x 2) (.k 3)) = false := by decide
theorem test_wf_mode : Instr.wf (.mode 0x0120) = false := by decide
theorem test_wf_modeRm : Instr.wf (.mode 0x0C00) = false := by decide
theorem test_wf_sxWord : Instr.wf (.lds .any .w true (.r 1) (.r 2) (.r 3)) = false := by decide
theorem test_wf_relLine : Instr.wf (.stg (some .line) .w (.r 1) (.r 2) (.r 3)) = false := by decide
theorem test_wf_core : Instr.wf (.drainOperation 160) = false := by decide
theorem test_wf_bank : Instr.wf (.bankServe 0 32) = false := by decide
theorem test_wf_copyQueue : Instr.wf (.copyStart 0 4) = false := by decide
theorem test_wf_part : Instr.wf (.tableEpoch 8) = false := by decide
theorem test_wf_port : Instr.wf (.flitSend 16) = false := by decide
theorem test_wf_flit : Instr.wf (.flitReceive 0 []) = false := by decide
theorem test_wf_peer : Instr.wf (.keySwitch 0 8192) = false := by decide
theorem test_wf_queue : Instr.wf (.tailWrite 1024 0) = false := by decide
theorem test_wf_die : Instr.wf (.placement 2) = false := by decide

/-! ### Words, field by field: major | minor | d | a | b | pka | pkb | sub (R200 to R210) -/

theorem test_word_add : decodeWord 0b000001_0000_000001_000010_000011_0_0_00 = .ok (.add (.r 1) (.x 2) (.x 3)) := by decide
theorem test_word_sad : decodeWord 0b000001_0111_000101_000010_100011_0_1_10 = .ok (.sad (.r 5) (.k 2) (.peek 3)) := by decide
theorem test_word_rotl : decodeWord 0b000010_1001_000001_000010_000011_0_0_01 = .ok (.rotl (.r 1) (.x 2) (.k 3)) := by decide
theorem test_word_icmp : decodeWord 0b000011_0011_000010_000100_110010_0_0_00 = .ok (.icmp .le (.r 2) (.x 4) (.tap 2)) := by decide
theorem test_word_fcmp : decodeWord 0b000100_0110_000010_000100_000101_0_0_00 = .ok (.fcmp .un (.r 2) (.x 4) (.x 5)) := by decide
theorem test_word_sel : decodeWord 0b000101_1011_000010_000100_000101_0_0_00 = .ok (.sel true 3 (.r 2) (.x 4) (.x 5)) := by decide
theorem test_word_ffma : decodeWord 0b000110_0011_000010_000100_000101_0_0_00 = .ok (.ffma (.r 2) (.x 4) (.x 5)) := by decide
theorem test_word_exp2 : decodeWord 0b000111_0010_000010_000100_000000_0_0_00 = .ok (.exp2 (.r 2) (.x 4)) := by decide
theorem test_word_cvt : decodeWord 0b001000_1010_000010_000100_000000_0_0_00 = .ok (.cvt .f16 (.r 2) (.x 4)) := by decide
theorem test_word_srnd : decodeWord 0b001001_1000_000010_000100_000101_0_0_00 = .ok (.srndBf16 (.r 2) (.r 4) (.r 5)) := by decide
theorem test_word_rdtid : decodeWord 0b001010_1010_000010_000000_000000_0_0_10 = .ok (.rdtid .set (.r 2)) := by decide
theorem test_word_addi : decodeWord 0b001011_000001_000010_11111111111111 = .ok (.addi (.r 1) (.r 2) 0x3FFF) := by decide
theorem test_word_srai : decodeWord 0b001111_000011_000100_10_000000_000101 = .ok (.srai (.r 3) (.r 4) 5) := by decide
theorem test_word_mode : decodeWord 0b010011_000000_0000_0000_000_00000_0_001 = .ok (.mode 1) := by decide
theorem test_word_lds : decodeWord 0b010100_0110_000100_000101_000110_0_0_00 = .ok (.lds .take .w false (.r 4) (.r 5) (.r 6)) := by decide
theorem test_word_sts : decodeWord 0b010101_1110_000100_000101_000110_0_0_01 = .ok (.sts (some .hall) true .w (.r 4) (.r 5) (.r 6)) := by decide
theorem test_word_stg : decodeWord 0b011001_1010_000111_001000_001001_0_0_10 = .ok (.stg (some .dev) .w (.r 7) (.r 8) (.r 9)) := by decide
theorem test_word_ats : decodeWord 0b011100_0111_000001_000010_000011_0_0_11 = .ok (.ats .cas .acqrel (.r 1) (.r 2) (.r 3)) := by decide
theorem test_word_redp : decodeWord 0b100000_0000_000001_000010_000011_0_0_00 = .ok (.redp (.r 1) (.r 2) (.r 3)) := by decide
theorem test_word_qfence : decodeWord 0b100001_000000_0001_0000000000_100001 = .ok (.qfence 0x21) := by decide
theorem test_word_barinit : decodeWord 0b100010_0000_000000_000011_000100_0_0_00 = .ok (.barinit false (.r 3) (.r 4)) := by decide
theorem test_word_copy : decodeWord 0b100011_0010_000001_000010_000000_0_0_00 = .ok (.copy 2 (.r 1) (.r 2)) := by decide
theorem test_word_sbind : decodeWord 0b100100_0001_000011_000000_000101_0_0_01 = .ok (.sbind true (.r 3) 5) := by decide
theorem test_word_mma : decodeWord 0b100101_0011_000010_000011_000100_0_0_01 = .ok (.mmaPort 2 (.r 3) (.r 4)) := by decide
theorem test_word_br : decodeWord 0b101001_010_1_1111111111111111111111 = .ok (.br 2 true 0x3FFFFF) := by decide
theorem test_word_nop : decodeWord 0b101010_0110_000000_000000_000000_0_0_00 = .ok .nop := by decide
theorem test_word_kmax : decodeWord 0b101011_1010_000001_000010_000011_0_0_00 = .ok (.kmax (.r 1) (.r 2) (.r 3)) := by decide
theorem test_word_prd : decodeWord 0b111110_0000_000100_000010_000000_0_0_00 = .ok (.prd (.r 4) (.r 2)) := by decide
theorem test_word_lresume : decodeWord 0b111110_0100_000100_000010_000001_0_0_00 = .ok (.lresume (.r 4) (.r 2) 1) := by decide
theorem test_word_zero : decodeWord 0 = .error .unassignedMajor := by decide
theorem test_word_ones : decodeWord 0xFFFFFFFF = .error .unassignedMajor := by decide
theorem test_word_mbz : decodeWord 0b101010_0110_000000_000000_000000_0_0_01 = .error .mustBeZero := by decide
theorem test_word_peek : decodeWord 0b000001_0000_000001_000010_000011_1_0_00 = .error .peekBit := by decide
theorem test_table_nop : decodeTableWord 32 0xA9800000 = some .nop := by decide

/-! ### States of the tests -/

/-- Thread j of a test line: x(n) holds n * 16 + j. -/
def tThread (j : Nat) : Thread := { Thread.launch with x := Vector.ofFn fun n => BitVec.ofNat 32 (n.val * 16 + j) }
/-- A line of w threads, all active, k(n) = 4 n, on lane 0 of core 0 in set 0 of grid 1. -/
def tLine (w : Nat) (ty : Nat) : Line :=
  { Line.launch { grid := 1, set := 0, line := 0 } w 32 16 with
    nports := 16, lmode := BitVec.ofNat 32 (ty * 16), threads := (List.range w).map tThread, k := Vector.ofFn fun n => BitVec.ofNat 32 (n.val * 4) }
def tSet : CSet := CSet.launch { grid := 1, set := 0 } 0 0x10000 1
/-- The line issues alone. -/
def tState (l : Line) : State :=
  { State.reset with time := 5000, cur := some l.ref, lines := [l], sets := [tSet], grids := [wordGrid 1], nextId := 2 }
/-- The line after an instruction, with thread 0. -/
def x0After (i : Instr) (l : Line) (n : Nat) : Option Word :=
  match exec i (tState l) with
  | .next t => (t.line l.ref).map fun m => m.x 0 n
  | _ => none
/-- A line of one thread with x1 and x2 given. -/
def tAB (ty mode : Nat) (a b : Word) : Line :=
  { tLine 1 ty with lmode := BitVec.ofNat 32 (ty * 16 + mode)
                    threads := [{ Thread.launch with x := ((Vector.replicate 32 0).set 1 a).set 2 b }] }

/-! ### Compute instructions: the examples of 09_isa_compute.md and hand calculation -/

theorem test_add_wraps : x0After (.add (.r 3) (.x 1) (.x 2)) (tAB 4 0 100 50) 3 = some 0xFFFFFF96 := by decide +kernel
theorem test_add_saturates : x0After (.add (.r 3) (.x 1) (.x 2)) (tAB 4 0x2000 100 50) 3 = some 0x7F := by decide +kernel
theorem test_abs_wraps : x0After (.abs (.r 3) (.x 1)) (tAB 4 0 0x80 0) 3 = some 0xFFFFFF80 := by decide +kernel
theorem test_mul_saturates : x0After (.mul (.r 3) (.x 1) (.x 2)) (tAB 0 0x2000 0x80000000 2) 3 = some 0x80000000 := by decide +kernel
theorem test_mulhi_signed : x0After (.mulhi (.r 3) (.x 1) (.x 2)) (tAB 0 0 0x80000000 2) 3 = some 0xFFFFFFFF := by decide +kernel
theorem test_mulhi_unsigned : x0After (.mulhi (.r 3) (.x 1) (.x 2)) (tAB 1 0 0x80000000 2) 3 = some 1 := by decide +kernel
theorem test_sub_order : x0After (.sub (.r 3) (.x 1) (.x 2)) (tAB 0 0 5 7) 3 = some 0xFFFFFFFE := by decide +kernel
theorem test_max_unsigned : x0After (.max (.r 3) (.x 1) (.x 2)) (tAB 1 0 0xFFFFFFFF 7) 3 = some 0xFFFFFFFF := by decide +kernel
theorem test_andn : x0After (.andn (.r 3) (.x 1) (.x 2)) (tAB 1 0 0xFF 0x0F) 3 = some 0xF0 := by decide +kernel
theorem test_shr_past_width : x0After (.shr (.r 3) (.x 1) (.x 2)) (tAB 1 0 0xFF 32) 3 = some 0 := by decide +kernel
theorem test_clz : x0After (.clz (.r 3) (.x 1)) (tAB 1 0 0xFF 0) 3 = some 24 := by decide +kernel
theorem test_fadd : x0After (.fadd (.r 3) (.x 1) (.x 2)) (tAB 8 0 0x3F800000 0x40000000) 3 = some 0x40400000 := by decide +kernel
theorem test_fadd_tie : x0After (.fadd (.r 3) (.x 1) (.x 2)) (tAB 8 0 0x3F800000 0x33800000) 3 = some 0x3F800000 := by decide +kernel
theorem test_fmul : x0After (.fmul (.r 3) (.x 1) (.x 2)) (tAB 8 0 0x40400000 0xC0000000) 3 = some 0xC0C00000 := by decide +kernel
theorem test_fmin_zeros : x0After (.fmin (.r 3) (.x 1) (.x 2)) (tAB 8 0 0x00000000 0x80000000) 3 = some 0x80000000 := by decide +kernel
theorem test_fclass_one : x0After (.fclass (.r 3) (.x 1)) (tAB 8 0 0x3F800000 0) 3 = some 0x40 := by decide +kernel
theorem test_rcp : x0After (.rcp (.r 3) (.x 1)) (tAB 8 0 0x40000000 0) 3 = some 0x3F000000 := by decide +kernel
theorem test_exp2 : x0After (.exp2 (.r 3) (.x 1)) (tAB 8 0 0x40400000 0) 3 = some 0x41000000 := by decide +kernel
theorem test_cvt_f16 : x0After (.cvt .f16 (.r 3) (.x 1)) (tAB 8 0 0x3F800000 0) 3 = some 0x3C00 := by decide +kernel
theorem test_cvt_s32 : x0After (.cvt .s32 (.r 3) (.x 1)) (tAB 8 0 0xC0200000 0) 3 = some 0xFFFFFFFE := by decide +kernel
theorem test_addi_sign : x0After (.addi (.r 3) (.r 1) 0x3FFF) (tAB 8 0 5 0) 3 = some 4 := by decide +kernel
theorem test_lui : x0After (.lui (.r 3) 0xABCDE) (tAB 0 0 5 0) 3 = some 0xABCDE000 := by decide +kernel
theorem test_x0_discards : x0After (.add (.r 0) (.x 1) (.x 2)) (tAB 0 0 5 7) 0 = some 0 := by decide +kernel
/-- A 64-bit type writes the pair. -/
theorem test_add_pair : x0After (.add (.r 4) (.x 2) (.x 2)) (tAB 7 0 0 0x80000000) 5 = some 1 := by decide +kernel

/-! ### Statements on compute instructions: their hypotheses can be met -/

abbrev l32 : Line := tLine 4 0
abbrev lF32 : Line := tLine 4 8
abbrev sOf (l : Line) : State := tState l

theorem wit_IntegerResults : IssuesAll (sOf l32) l32 ∧ intTypes l32 = true ∧ plain2 l32 3 (.x 1) (.k 2) ∧ plain2 l32 3 (.x 1) noB ∧
    (let s := { sOf l32 with quantum := 2 }; Issues s l32 ∧ 0 < s.quantum ∧ l32.issueThreads.drop s.quantum = 2 :: [3]) := by decide +kernel
/-- Two threads issue, then other lanes may come between (R33). -/
theorem test_issue_in_two : (match exec (.add (.r 3) (.x 1) (.x 2)) { sOf l32 with quantum := 2 } with
    | .next t => (t.line l32.ref).map fun m => (m.pc, m.tri, m.x 1 3, m.x 2 3)
    | _ => none) = some (0, 2, 50, 50) := by decide +kernel
theorem wit_LogicAndCompare : IssuesAll (sOf l32) l32 ∧ logicTypes l32 = true ∧ plain2 l32 3 (.x 1) (.x 2) ∧ l32.okSrc true false (.x 2) = true ∧
    plain2 l32 0 (.x 1) noB ∧ intTypes l32 = true ∧ plainAB l32 (.x 1) (.k 2) := by decide +kernel
theorem wit_LogicAndCompare_fcmp : IssuesAll (sOf lF32) lF32 ∧ arithTypes lF32 = true ∧ plainAB lF32 (.x 1) (.x 2) ∧
    ∀ f, quietFlags lF32 (fun j => (fcmpOf f (lF32.ty.fmt.value (ftzIn lF32.ty.fmt lF32.ftz (lowCode lF32.ty (plainVal lF32 j false (.x 1)))))
      (lF32.ty.fmt.value (ftzIn lF32.ty.fmt lF32.ftz (lowCode lF32.ty (plainVal lF32 j false (.x 2)))))).2) := by
  refine ⟨by decide +kernel, by decide +kernel, by decide +kernel, fun f => ?_⟩
  cases f <;> decide +kernel
theorem wit_FloatResults : IssuesAll (sOf lF32) lF32 ∧ arithTypes lF32 = true ∧ plain2 lF32 3 (.x 1) (.x 2) ∧ plain2 lF32 3 (.x 1) noB ∧
    quietFlags lF32 (fun j => (fBin addFV lF32 j (plainVal lF32 j false (.x 1)) (plainVal lF32 j false (.x 2))).fl) := by decide +kernel
theorem wit_ConversionResults : IssuesAll (sOf lF32) lF32 ∧ lF32.ty = .f32 ∧ plain2 lF32 3 (.x 1) noB ∧ plain2 lF32 3 (.x 1) (.x 2) ∧
    quietFlags lF32 (fun j => (qcvtF .e4m3 lF32 j (plainVal lF32 j false (.x 1)) 0).fl) ∧ Ty.code .f16 < 12 ∧
    quietFlags lF32 (fun j => (cvtRes lF32.ty .f16 (lF32.rmOf j) lF32.ftz lF32.isat (plainVal lF32 j false (.x 1))).fl) ∧
    lF32.okX false 3 = true ∧ lF32.okK false 2 = true ∧ readyRegs lF32 [3, 1] [2] := by decide +kernel
theorem wit_ImmediatesAndMoves : IssuesAll (sOf l32) l32 ∧ l32.okX false 31 = true ∧ l32.okX false 0 = true ∧ l32.okK false 15 = true ∧
    readyRegs l32 [31, 0] [15] ∧ plain2 l32 3 (.x 1) noB ∧ (sOf l32).cset (setOf l32.ref) = some tSet := by decide +kernel
theorem wit_UniformResults : Issues (sOf l32) l32 ∧ l32.okK false 15 = true ∧ l32.okK false 0 = true ∧ readyRegs l32 [] [15, 0] ∧
    (14 : Fin 32).val + 1 < l32.kregs ∧ (sOf l32).matrixBusy l32.ref = false ∧ bitsAt 0x110 4 5 < 18 ∧ bitsAt 0xA00 9 3 < 6 ∧
    (∀ k < l32.width, l32.isActive k = true → 0 ≤ k) ∧ l32.isActive 0 = true ∧ l32.okX false 1 = true ∧
    (let l := tLine 4 6; Issues (sOf l) l ∧ l.ty.dbl = true ∧ l.tri = 0 ∧ (sOf l).unconfirmed l.ref = false) := by decide +kernel
/-- A line whose port 0 is not bound, one of a TYPE that every instruction but SEL refuses, one with an x register outstanding, one with a k register
outstanding, one that enables V and adds a signalling NaN. -/
theorem wit_ChecksComeFirst :
    (∀ l ∈ [l32, tLine 4 12], Issues (sOf l) l ∧ (sOf l).unconfirmed l.ref = false ∧ l.tri = 0) ∧
    (∀ t ∈ l32.twoSources (.q 0) (.x 1) (.x 2) 0 false .eq .eq, t.ok = false) ∧
    ((tLine 4 12).twoSources (.r 3) (.x 1) (.x 2) 0 false .eq .eq).length = 28 ∧
    (∀ t ∈ (tLine 4 12).twoSources (.r 3) (.x 1) (.x 2) 0 false .eq .eq, t.ok = true ∧ (t.types = false ∨ t.i = .sel false 0 (.r 3) (.x 1) (.x 2))) ∧
    (let l := { l32 with pend := [(0, 2)] }
     Issues (sOf l) l ∧ l.issueThreads = 0 :: [1, 2, 3] ∧ ∀ t ∈ l.twoSources (.r 3) (.x 1) (.x 2) 0 false .eq .eq, t.ok = true ∧ l.pendingX 0 t.xs = some 2) ∧
    (let l := { l32 with kpend := [2] }
     ∀ t ∈ l.twoSources (.r 3) (.x 1) (.k 2) 0 false .eq .eq, t.ok = true ∧ l.pendingX 0 t.xs = none ∧ l.pendingK t.ks = some 2) ∧
    (let l := { tAB 8 0 0x7F800001 0 with threads := [{ (tAB 8 0 0x7F800001 0).thread 0 with fpst := 0x1F00 }] }
     Issues (sOf l) l ∧ l.issueThreads = [0] ∧ Machine.plain (.x 1) = true ∧ Machine.plain (.x 2) = true ∧
      ((l.twoSources (.r 3) (.x 1) (.x 2) 0 false .eq .lt).countP fun t =>
        t.ok && t.types && decide (readyRegs l t.xs t.ks) && decide (enabledOf (l.fpst 0) (t.fl 0) ≠ 0)) = 8) := by decide +kernel

/-! ### Ports, taps, control and traps -/

/-- A port of 32-bit elements from scratchpad address 0x40, `n` of them, one word apart. -/
def tPort (write : Bool) (n pos : Nat) (w1 w9 : Word) : Port :=
  { bound := true, write, slot := 0, pos, held := none,
    desc := #v[0x40, 0x02000000 ||| w1, BitVec.ofNat 32 ((n - 1) * 0x10000 + 2), 0, 0, 4, 0, 0, 0, w9] }
/-- A line of which thread 0 alone is active, with this port as q2. -/
def tPortLine (p : Port) : Line :=
  { tLine 4 1 with active := 1, ports := (Vector.replicate 16 Port.unbound).set 2 p }
abbrev lPop : Line := tPortLine (tPort false 4 1 0 0)
abbrev lPopEnd : Line := tPortLine (tPort false 4 4 0 0)
/-- A padded column: the window's first column is 1. -/
abbrev lPopPad : Line := tPortLine (tPort false 4 0 0x80000000 0x00010000)
abbrev lPopOut : Line := tPortLine { tPort false 4 0 0x10000000 0 with desc := (tPort false 4 0 0x10000000 0).desc.set 0 0x10000 }
abbrev lPush : Line := tPortLine (tPort true 4 3 0 0)

theorem wit_PortReads : (∀ l ∈ [lPop, lPopEnd, lPopPad, lPopOut], Issues (sOf l) l ∧ l.issueThreads = [0] ∧ l.okX l.ty.dbl 3 = true ∧
      l.okPortR l.ty.dbl 2 = true ∧ readyRegs l (0 :: regs l.ty.dbl 3) [] ∧ (sOf l).cset (setOf l.ref) = some tSet ∧ (sOf l).readsHeld l = false) ∧
    descElem (lPopEnd.port 2).desc 4 = .ended ∧ (descElem (lPopPad.port 2).desc 0 = .pad ∧ (lPopPad.port 2).held = none) ∧
    (descElem (lPop.port 2).desc 1 = .at_ 0x44 ∧ descSpace (lPop.port 2).desc = 1 ∧ descTag (lPop.port 2).desc = 0 ∧ 0x44 < tSet.win ∧
      (sOf lPop).ownBank lPop.ref tSet.ref (0x44 / 16) = false ∧ (sOf lPop).bankBusy tSet 0x44 = false ∧ tSet.badGran.contains (0x44 / 16) = false) ∧
    (descElem (lPopOut.port 2).desc 0 = .at_ 0x10000 ∧ descSpace (lPopOut.port 2).desc = 1 ∧ descTag (lPopOut.port 2).desc = 0 ∧
      tSet.win ≤ 0x10000 ∧ descOobz (lPopOut.port 2).desc = true) := by decide +kernel
theorem wit_PortPushes : Issues (sOf lPush) lPush ∧ lPush.issueThreads = [0] ∧ lPush.okX lPush.ty.dbl 1 = true ∧
    lPush.okPortW lPush.ty.dbl 2 = true ∧ readyRegs lPush (regs lPush.ty.dbl 1 ++ regs lPush.ty.dbl 0) [] ∧
    (sOf lPush).cset (setOf lPush.ref) = some tSet ∧ descElem (lPush.port 2).desc 3 = .at_ 0x4C ∧ descSpace (lPush.port 2).desc = 1 ∧
    0x4C < tSet.win ∧ tSet.isMark (0x4C / 16) = false ∧ (sOf lPush).barPending tSet.ref (0x4C / 16) = false ∧ (sOf lPush).acquiring lPush.ref = false ∧ (sOf lPush).unconfirmed lPush.ref = false ∧
    (sOf lPush).bankLoad tSet.core (CSet.bankOf 0x4C) < 16 ∧
    descElem (tPort true 4 4 0 0).desc 4 = .ended ∧ descElem (tPort true 4 0 0x80000000 0x00010000).desc 0 = .pad ∧
    (tPortLine (tPort true 4 4 0 0)).okPortW false 2 = true := by decide +kernel
/-- A pop reads the element of its position, extended under the TYPE, and moves on; the end of the pattern gives zero and the end bit, and the position still moves (R78). -/
theorem test_pop : (match exec (.mov (.r 3) (.pop 2)) { sOf lPop with sets := [tSet.write 0x44 [0x78, 0x56, 0x34, 0x12]] } with
    | .next t => (t.line lPop.ref).map fun m => (m.x 0 3, (m.port 2).pos)
    | _ => none) = some (0x12345678, 2) := by decide +kernel
theorem test_pop_end : (match exec (.mov (.r 3) (.pop 2)) (sOf lPopEnd) with
    | .next t => (t.line lPopEnd.ref).map fun m => (m.x 0 3, (m.port 2).pos, m.end_ 2)
    | _ => none) = some (0, 5, 1) := by decide +kernel

/-- Two threads of an ADD with e0: the running sum of the second (R86's scan). -/
abbrev lTap : Line := { tLine 2 1 with seeds := (Vector.replicate 4 0).set 0 100 }
theorem test_tap_scan : (match exec (.add (.r 3) (.x 1) (.tap 0)) (sOf lTap) with
    | .next t => (t.line lTap.ref).map fun m => (m.x 0 3, m.x 1 3)
    | _ => none) = some (116, 133) := by decide +kernel
theorem wit_TapsCarryBetweenThreads : IssuesAll (sOf lTap) lTap ∧ lTap.issueThreads = [0, 1] ∧ lTap.ty = .n32 ∧ lTap.isat = false ∧
    lTap.cv = false ∧ lTap.okX false 3 = true ∧ lTap.okX false 1 = true ∧ readyRegs lTap [1, 3] [] ∧ 1 < lTap.threads.length := by decide +kernel

theorem wit_JumpsAndCalls : Issues (sOf l32) l32 ∧ 2 ≤ l32.kregs ∧ readyRegs l32 [] [1] ∧ l32.okK false 15 = true ∧ l32.okK false 2 = true ∧
    readyRegs l32 [] [2, 15] ∧ l32.kr 2 &&& 3 = 0 ∧
    (let l := { l32 with kpend := [2] }; Issues (sOf l) l ∧ l.okK false 2 = true ∧ 2 ∈ l.kpend) ∧
    (let l := { l32 with kregs := 1 }; Issues (sOf l) l ∧ l.kregs < 2 ∧ (sOf l).unconfirmed l.ref = false) := by decide +kernel
theorem test_call : (match exec (.call 0x3FFFFFE) (sOf { l32 with pc := 0x100 }) with
    | .next t => (t.line l32.ref).map fun m => (m.pc, m.kr 1)
    | _ => none) = some (0xF8, 0x104) := by decide +kernel

/-- Threads 0 and 1 have p1 set: a branch on p1 diverges. -/
abbrev lBr : Line :=
  { tLine 4 0 with
    threads := [{ tThread 0 with p := 3 }, { tThread 1 with p := 3 }, tThread 2, tThread 3], rp := true, ra := 0x40, crv := 0x40, pc := 0x20 }
abbrev lBr2 : Line := { lBr with crv := 0xFFFFFFFF }
abbrev lBrFull : Line := { lBr2 with depth := 15 }
theorem wit_BranchDiverges :
    (∀ l ∈ [lBr, lBr2, lBrFull], Issues (sOf l) l ∧ l.width ≤ 64 ∧ (sOf l).unconfirmed l.ref = false) ∧
    (∀ j < 64, (3 : DWord).getLsbD j = (decide (j < lBr.width) && lBr.active.getLsbD j && (lBr.p j 1 != false))) ∧
    (∀ j < 64, (0 : DWord).getLsbD j = (decide (j < lBr.width) && lBr.active.getLsbD j && (lBr.p j 0 != true))) ∧
    (∀ j < 64, (15 : DWord).getLsbD j = (decide (j < lBr.width) && lBr.active.getLsbD j && (lBr.p j 0 != false))) ∧
    (lBr.active &&& ~~~(3 : DWord) ≠ 0 ∧ lBr.active &&& ~~~(15 : DWord) = 0) ∧
    (lBr.rp = true ∧ lBr.ra = lBr.crv ∧ lBr.depth + 1 ≤ 16) ∧ (lBr2.ra ≠ lBr2.crv ∧ lBr2.depth + 2 ≤ 16) ∧
    (16 < lBrFull.depth + 2) := by decide +kernel
theorem test_branch_diverges : (match exec (.br 1 false 0x10) (sOf lBr) with
    | .next t => (t.line lBr.ref).map fun m => (m.pc, m.active, m.depth, (m.entry 0).pc, (m.entry 0).mask)
    | _ => none) = some (0x24, 0xC, 1, 0x60, 3) := by decide +kernel

abbrev lStk : Line := { tLine 4 0 with depth := 2, pc := 0x40, crv := 0x40, stack := ((Vector.replicate 16 StackEntry.zero).set 0
  { pc := 0x80, rcv := 0x90, mask := 0x3 }).set 1 { pc := 0x50, rcv := 0x60, mask := 0x1 } }
theorem wit_ReconvergenceStack : (sOf lStk).line lStk.ref = some lStk ∧ lStk.pc = lStk.crv ∧ 0 < lStk.depth ∧ (0 : Nat) < 64 ∧ lStk.depth ≤ 16 := by decide +kernel
theorem test_leave : ((lStk.leave 0).depth, ((lStk.leave 0).entry 0).mask, (lStk.leave 0).active) = (1, 0x2, 0xE) := by decide +kernel

/-- The threads of a line, none of which awaits a value. -/
abbrev allClear (l : Line) : Prop := ∀ j ∈ l.issueThreads, (∀ p ∈ l.pend, p.1 ≠ j) ∧ ∀ f ∈ l.failed, f.1 ≠ j
theorem wit_ExitAndKill : (let l := { l32 with threads := l32.threads.map fun t => { t with p := 1 }, lmode := 0 }
      Issues (sOf l) l ∧ (sOf l).unconfirmed l.ref = false ∧ allClear l ∧ (l.issueThreads.foldl Line.leave l).active = 0 ∧
      (l.issueThreads.foldl Line.leave l).depth = 0) ∧
    (let l := lStk
     Issues (sOf l) l ∧ (l.issueThreads.foldl Line.leave l).active = 0 ∧ (l.issueThreads.foldl Line.leave l).depth = 0) ∧
    (let l := { lBr with lmode := 1 }
     Issues (sOf l) l ∧ allClear l ∧ (l.issueThreads.foldl Line.leave l).active ≠ 0 ∧ ∀ g ∈ (sOf l).grids, g.killed ≤ 0xFFFFFFFF) ∧
    (let l := { lStk with active := 0xC, depth := 1 }
     Issues (sOf l) l ∧ allClear l ∧ (l.issueThreads.foldl Line.leave l).active = 0 ∧ 0 < (l.issueThreads.foldl Line.leave l).depth) ∧
    (let l := { l32 with pend := [(2, 9)] }
     Issues (sOf l) l ∧ l.issueThreads = [0, 1] ++ 2 :: [3] ∧ (∀ k ∈ [0, 1], ∀ p ∈ l.pend, p.1 ≠ k) ∧ l.failed = [] ∧
     l.pend.find? (fun p => decide (p.1 = 2)) = some (2, 9)) ∧
    (let r : Rec := { cls := 0x14, uid := 1 }
     let l := { l32 with failed := [(2, 9, r)] }
     Issues (sOf l) l ∧ l.pend = [] ∧ (∀ k ∈ [0, 1], ∀ f ∈ l.failed, f.1 ≠ k) ∧ l.failedAt 2 = some (2, 9, r)) := by decide +kernel
theorem test_exit_last : (match exec .exit (sOf l32) with
    | .next t => t.lines.map Line.status
    | _ => []) = [] := by decide +kernel

theorem wit_GrowRaisesTheCount : (let l := { l32 with k := l32.k.set 2 (BitVec.ofNat 32 1) }
      Issues (sOf l) l ∧ l.okK false 3 = true ∧ l.okK false 2 = true ∧ readyRegs l [] [2, 3] ∧ (sOf l).unconfirmed l.ref = false ∧
      (sOf l).grid l.ref.grid = some (wordGrid 1) ∧ 1 ≤ (l.kr 2).toNat ∧ (wordGrid 1).count + (l.kr 2).toNat ≤ 2 ^ 32 ∧
      (l.kr 2).toNat % 2 ^ fld ((wordGrid 1).pkt.getD 0 0) 18 2 = 0) ∧
    (l32.kr 0).toNat = 0 ∧ (let k : Word := 0xFFFFFFFF; 1 ≤ k.toNat ∧ (2 ^ 32 < 2 + k.toNat)) := by decide +kernel
theorem test_grow : (match exec (.grow (.r 3) (.r 1)) (sOf l32) with
    | .next t => ((t.line l32.ref).map fun m => m.kr 3, t.grids.map Grid.count)
    | _ => (none, [])) = (some 1, [5]) := by decide +kernel

theorem wit_TrapAndScallEnter : Issues (sOf lPop) lPop ∧ (sOf lPop).unconfirmed lPop.ref = false ∧ lPop.issueThreads = [0] ∧
    Issues (sOf l32) l32 ∧ l32.issueThreads = [0, 1, 2, 3] ∧ ({ l32 with lmode := 1 } : Line).issueThreads = [] ∧
    (sOf l32).fenceOk l32 .dev (sOf l32).nextId = true ∧ l32.errs = [] := by decide +kernel

/-- FREN 1, FRBASE 0x1_0000_0000, FPBASE 0x2_0000_0000 in partition 0. -/
def tParts : Vector Partition 8 := State.reset.parts.set 0 { Partition.reset true with frlo := 1, frhi := 1, fplo := 0, fphi := 2 }
theorem wit_TrapEntrySavesTheLine : (sOf l32).line l32.ref = some l32 ∧ l32.part < 8 ∧ (sOf l32).memWf ∧ ({ cls := 0x20 } : FaultInfo).reg = none ∧
    ((sOf l32).part l32.part).fren = false ∧
    (let s := { sOf l32 with parts := tParts }
     s.line l32.ref = some l32 ∧ s.memWf ∧ (s.part l32.part).fren = true ∧ (s.part l32.part).backlog = [] ∧
      s.mayStore l32.part ((s.part l32.part).frbase + 64 * l32.handle) = true) ∧
    (let p := { tParts[0] with frhi := 0x70 }
     let s := { sOf l32 with parts := tParts.set 0 p }
     (s.part l32.part).fren = true ∧ (s.part l32.part).backlog = [] ∧ s.mayStore l32.part ((s.part l32.part).frbase + 64 * l32.handle) = false) ∧
    (({ sOf l32 with parts := tParts.set 0 { tParts[0] with backlog := [9] } } : State).part l32.part).backlog ≠ [] := by decide +kernel
theorem test_trap_entry : (match exec (.trap 5) { sOf lPop with parts := tParts } with
    | .next t => (t.lines.map fun m => (m.status, m.pc, m.tri), readBytes t.dev 0x100000000 4)
    | _ => ([], [])) = ([(.trapped, 4, 0)], [0x20, 0, 1, 0]) := by decide +kernel

abbrev sPend : State :=
  { sOf l32 with lines := [{ l32 with status := .trapped, recStage := .written 4000 [] }], parts := tParts }
theorem wit_PendingBitFollowsTheRecord : (let l := { l32 with status := .trapped, recStage := .written 4000 [] }
    sPend.lines = [l] ∧ l.status = .trapped ∧ l.recStage = .written 4000 [] ∧ 4000 < sPend.time ∧ sPend.tabDone [] = true ∧ sPend.fenceOk l .dev sPend.nextId = true ∧ l.part < 8 ∧ sPend.memWf ∧
    (sPend.part l.part).backlog = [] ∧ sPend.doorbellAt l.part = none ∧ (sPend.part l.part).fren = true ∧
    sPend.mayStore l.part ((sPend.part l.part).fpbase + l.handle / 8) = true ∧ bit (sPend.part l.part).fdset 31 = false) ∧
    (let s := { sPend with parts := tParts.set 0 { tParts[0] with fdset := 0x80000000, fdoff := 0x20 } }
     s.doorbellAt 0 = some (tSet, 0x20) ∧ s.bankBusy tSet 0x20 = false ∧ tSet.phase = .resident ∧
     bit (s.part 0).fdset 31 = true ∧ s.sets = [tSet] ∧ tSet.part = 0 ∧ tSet.handle = fld (s.part 0).fdset 0 18 ∧ fld (s.part 0).fdoff 0 20 = 0x20 ∧
     0x20 % 16 = 0 ∧ 0x20 < tSet.win ∧ tSet.isMark (0x20 / 16) = false ∧ Memory.wf tSet.spad = true) ∧
    (let s := { sPend with parts := State.reset.parts }
     (s.part 0).fren = false ∧ s.sysRecs = [] ∧ (s.part 0).backlog = [] ∧ s.doorbellAt 0 = none) := by decide +kernel

/-! ### Privileged instructions -/

/-- A supervisor line with k2 = 2 … given, and beside it a trapped line on lane 1 (handle 8) whose record is done with sequence 7. -/
def tSup (k1 k2 k3 : Word) : Line :=
  { tLine 4 0 with pl := true, k := (((Vector.replicate 16 0).set 1 k1).set 2 k2).set 3 k3 }
def tTrapped : Line :=
  { tLine 4 0 with
    ref := { grid := 1, set := 0, line := 1 }, lane := 1, status := .trapped, recStage := .done, pc := 0x80, tri := 2
    record := { Rec.zero with cls := 0x20, seq := 7, handle := 8 } }
def sSup (l : Line) : State := { tState l with lines := [l, tTrapped], parts := tParts }
abbrev l8 : Line := tSup 8 7 0x55

theorem wit_PrivilegeAndItsRegisters : (Issues (sOf l32) l32 ∧ l32.pl = false ∧ (sOf l32).unconfirmed l32.ref = false) ∧
    (Supervises (sSup l8) l8 [4, 1, 2] ∧ l8.okK false 4 = true ∧ l8.okK false 1 = true ∧ l8.okK false 2 = true ∧ l8.part < 8) ∧
    (∀ n ∈ [0x0000, 0x0016, 0x0030, 0x0031, 0x0051, 0x0010, 0x0011, 0x0012, 0x0013, 0x0014, 0x0015, 0x0020, 0x0021, 0x0022, 0x0023, 0x0060, 0x017F],
      (tSup (BitVec.ofNat 32 n) 0 0).kr 1 = BitVec.ofNat 32 n) ∧
    ((sSup l8).part 0).fren = true ∧ ((sOf l8).part 0).fren = false ∧
    (sSup l8).privRead 0 8 = none ∧ 0xFFFF < ((tSup 0x10000 0 0).kr 1).toNat := by decide +kernel
theorem test_prd_lease : (match exec (.prd (.r 4) (.r 1)) (sSup (tSup 0x20 0 0)) with
    | .next t => (t.line l8.ref).map fun m => m.kr 4
    | _ => none) = some 1024 := by decide +kernel
theorem test_prd_user : (match exec (.prd (.r 4) (.r 1)) (sSup { tSup 0x20 0 0 with pl := false }) with
    | .next t => (t.line l8.ref).map fun m => (m.status, m.record.cls)
    | _ => none) = some (.trapped, 0x02) := by decide +kernel

theorem wit_SavedLineAccess : (0 < l32.width ∧ l32.xregs ≤ 32 ∧ 0 < l32.xregs ∧ (15 : Nat) < 16 ∧ (3 : Nat) < l32.width ∧ (31 : Nat) < l32.xregs ∧ 3 < l32.threads.length) ∧
    (let l := tSup 8 0x18 0x55
     Supervises (sSup l) l [4, 1, 2, 3] ∧ l.okK false 4 = true ∧ l.okK false 3 = true ∧ (1 : Fin 32).val + 1 < l.kregs ∧
     ((sSup l).handleCore l.part (l.kr 1)).isSome = true ∧ (sSup l).lineAt l.part (l.kr 1) = some tTrapped ∧ tTrapped.ref ≠ l.ref ∧
     tTrapped.status = .trapped ∧ tTrapped.imageWord 0 (l.kr 2).toNat = some 0xFFFFFFFF ∧
     (∃ m, tTrapped.imageWrite 0 2 (l.kr 2).toNat 0x55 = some m ∧ m.ref = tTrapped.ref ∧ m.ports = tTrapped.ports)) ∧
    (let l := tSup 8 0x18 0x55
     let s := { sSup l with lines := [l, { tTrapped with status := .ready }] }
     Supervises s l [4, 1, 2, 3] ∧ s.lineAt l.part (l.kr 1) = some { tTrapped with status := .ready }) := by
  refine ⟨by decide +kernel, ⟨by decide +kernel, by decide +kernel, by decide +kernel, by decide +kernel, by decide +kernel, by decide +kernel,
    by decide +kernel, by decide +kernel, by decide +kernel, { tTrapped with crv := 0x55 }, by decide +kernel, by decide +kernel, by decide +kernel⟩, by decide +kernel⟩

theorem wit_LresumeReturnsFromATrap :
    (Supervises (sSup l8) l8 [4, 1, 2] ∧ l8.okK false 4 = true ∧ (1 : Fin 32).val + 1 < l8.kregs ∧
      ((sSup l8).handleCore l8.part (l8.kr 1)).isSome = true ∧ (sSup l8).lineAt l8.part (l8.kr 1) = some tTrapped ∧ tTrapped.ref ≠ l8.ref ∧
      tTrapped.status = .trapped ∧ tTrapped.recStage = .done ∧ tTrapped.record.seq = fld (l8.kr 2) 0 16 ∧
      (sSup l8).line tTrapped.ref = some tTrapped ∧ (∀ q < 16, (tTrapped.port q).bound = false) ∧ (sSup l8).memWf ∧
      (sSup l8).mayStore tTrapped.part (((sSup l8).part tTrapped.part).fpbase + tTrapped.handle / 8) = true) ∧
    tTrapped.record.seq ≠ fld ((tSup 8 6 0).kr 2) 0 16 ∧
    (let s := { sSup l8 with lines := [l8, { tTrapped with status := .ready }] }
     s.lineAt l8.part (l8.kr 1) = some { tTrapped with status := .ready }) := by decide +kernel
theorem test_lresume : (match exec (.lresume (.r 4) (.r 1) 0) (sSup l8) with
    | .next t => ((t.line l8.ref).map fun m => m.kr 4, (t.line tTrapped.ref).map fun m => (m.status, m.pc, m.tri))
    | _ => (none, none)) = (some 1, some (.ready, 0x80, 2)) := by decide +kernel

/-- An index, a value, and partition 0 with its ports and region 0 valid. -/
abbrev lTab (i v hi : Word) : Line := tSup i hi v
theorem wit_TablesAreWritten :
    (let l := lTab 18 5 0
     Supervises (sSup l) l [3, 1, 2] ∧ l.okK false 1 = true ∧ l.okK false 3 = true ∧ l.part < 8 ∧ (l.kr 1).toNat ≤ 0x7FF ∧ (l.kr 1).toNat % 32 < 19 ∧
     ((sSup l).part 0).commit = none ∧ ((sSup l).part 0).pport.testBit 15 = true ∧ tabWf 0 0 ((sSup l).part 0).pendFig = true) ∧
    (let l := lTab 0x10000 0 1
     Supervises (sSup l) l [3, 1, 2] ∧ fld (l.kr 3) 6 2 = 0 ∧ ((sSup l).part 0).figure = none ∧ (sSup l).time + 0 + 10000 ≤ (l.kr 2).toNat * 2 ^ 32 + (l.kr 1).toNat ∧
     ∀ sl ∈ (List.range (fld (l.kr 3) 0 6 + 1)).map ((sSup l).part 0).pendSlot, 2000 ≤ sl.len ∧ sl.len ≤ 1000000 ∧ 200 ≤ sl.guard ∧ sl.guard + 1000 ≤ sl.len) ∧
    (let l := lTab 0x7F9 5 0
     (l.kr 1).toNat % 8 < 2 ∧ bit (((sSup l).part 0).region ((l.kr 1).toNat / 8) 2) 0 = false) ∧
    (let l := lTab 0x7FF 5 0
     4 ≤ (l.kr 1).toNat % 8 ∧ fld (l.kr 3) 0 3 < 6) ∧
    (let l := lTab 0xFF 3 0
     let p := { (sSup l).part 0 with regions := [(2042, 1)] }
     (l.kr 1).toNat ≤ 0xFF ∧ (l.kr 3).toNat ≤ 3 ∧ bit (p.region (l.kr 1).toNat 2) 0 = true ∧ tabWf 0 0 p.regions = true) := by decide +kernel

/-- A stopped copy at the head of queue 3 of core 0, handle 0x218, and an image area. -/
def tCopy (st : OpState) : CopyOp :=
  { id := 1, core := 0, queue := 3, issuer := l32.ref, part := 0, rph := 0, det := false, src := Vector.replicate 10 0,
    dst := Vector.replicate 10 0, mmask := 0, ben := false, bgr := 0, n := 0, state := st, lastG := 0, held := none }
def sQ (l : Line) (st : OpState) : State :=
  { sSup l with copyQ := [tCopy st], parts := tParts.set 0 { tParts[0] with cxbase := 0x10000, cxsize := 0x100 } }
theorem wit_PreemptAndQueueControl :
    (let l := tSup 0 0 0
     let s := sQ l (.stopped 7 0)
     Supervises s l [4, 1] ∧ l.okK false 4 = true ∧ l.okK false 1 = true ∧ (s.handleCore l.part (l.kr 1)).isSome = true ∧ s.line l.ref = some l ∧
     fld (l.kr 1) 4 6 = 0 ∧ s.setAt l.part (l.kr 1) = some tSet ∧ tSet.phase ≠ .stopping ∧ s.imageRoom tSet = true ∧
     s.setAt l.part 1 = none ∧ fld (1 : Word) 4 6 = 0) ∧
    (let l := tSup 0x218 0 0
     ∀ st ∈ [OpState.stopped 7 0, .started], Supervises (sQ l st) l [4, 1] ∧ (sQ l st).handleCore l.part (l.kr 1) = some 0 ∧ fld (l.kr 1) 0 3 = 0 ∧
     fld (l.kr 1) 3 7 = 64 + 3 ∧ (sQ l st).copyHead 0 3 = some (tCopy st)) := by decide +kernel
theorem test_qctl : (match exec (.qctl (.r 4) (.r 1) 0) (sQ (tSup 0x218 0 0) (.stopped 7 0)) with
    | .next t => ((t.line l8.ref).map fun m => m.kr 4, t.copyQ.map CopyOp.state)
    | _ => (none, [])) = (some 1, [.started]) := by decide +kernel

/-! ### Memory instructions -/

theorem wit_LocalAccesses : (IssuesAll (sOf l32) l32 ∧ l32.okX false 3 = true ∧ l32.okX false 1 = true ∧ l32.okK false 2 = true ∧
      readyRegs l32 (1 :: regs false 3) [2] ∧ (sOf l32).acquiring l32.ref = false ∧ (sOf l32).awaitsTag l32 = false ∧ l32.takeRun = none ∧ (sOf l32).unconfirmed l32.ref = false ∧
      (sOf l32).cset tSet.ref = some tSet ∧
      ∀ j ∈ l32.issueThreads, (l32.x j 1 + l32.kr 2).toNat = 24 + j ∧ (sOf l32).barPending tSet.ref ((24 + j) / 16) = false ∧ tSet.isMark ((24 + j) / 16) = false) ∧
    (∀ gal, ∀ j ∈ l32.issueThreads, (sOf l32).localAddr l32 gal (l32.x j 1 + l32.kr 2).toNat Width.b.bytes = .ok (tSet, 24 + j)) ∧
    (∀ g, (sOf l32).bankLoad tSet.core (CSet.bankOf g) + l32.issueThreads.length ≤ 16) ∧ TagMode.keep ≠ .take ∧ TagMode.keep ≠ .acq := by
  refine ⟨by decide +kernel, ?_, fun g => ?_, by decide, by decide⟩
  · intro gal j hj
    have : j ∈ [0, 1, 2, 3] := hj
    simp only [List.mem_cons, List.not_mem_nil, or_false] at this
    obtain rfl | rfl | rfl | rfl := this <;> cases gal <;> rfl
  · show 0 + 4 ≤ 16
    decide

/-- One active thread; the pair {x3, x2} holds the address 0x1000, {x5, x4} the data. -/
abbrev lOne : Line :=
  { tLine 4 0 with active := 1, threads := [{ tThread 0 with x := ((Vector.ofFn fun n => BitVec.ofNat 32 (n.val * 16)).set 2 0x1000).set 3 0 }, tThread 1, tThread 2, tThread 3] }
theorem wit_TakeLoadsAndLocalAtomics : (Issues (sOf lOne) lOne ∧ lOne.issueThreads = [0] ∧ (4 : Fin 32) ≠ 0 ∧ lOne.okX false 4 = true ∧ lOne.okX false 2 = true ∧
      lOne.okK false 0 = true ∧ readyRegs lOne [2, 4] [0] ∧ lOne.takeRun = none ∧ (lOne.x 0 2 + lOne.kr 0).toNat = 0x1000 ∧
      (sOf lOne).readsHeld lOne = false ∧ (sOf lOne).unconfirmed lOne.ref = false ∧ (sOf lOne).bankLoad tSet.core (CSet.bankOf 0x1000) < 16 ∧
      atomTypes .cas lOne.ty = true ∧ lOne.okX lOne.ty.dbl 5 = true ∧ readyRegs lOne (2 :: (regs false 5 ++ regs false 4)) [] ∧
      (sOf lOne).barPending tSet.ref (0x1000 / 16) = false ∧ tSet.isMark (0x1000 / 16) = false) ∧
    (sOf lOne).localAddr lOne false (lOne.x 0 2 + lOne.kr 0).toNat 4 = .ok (tSet, 0x1000) ∧
    (sOf lOne).localAddr lOne true (lOne.x 0 2).toNat (lOne.ty.bits / 8) = .ok (tSet, 0x1000) :=
  ⟨by decide +kernel, rfl, rfl⟩
theorem test_lds_take : (match exec (.lds .take .w false (.r 4) (.r 2) (.r 0)) (sOf lOne) with
    | .next t => t.bankQ.map fun q => (q.off, q.size)
    | _ => []) = [(0x1000, 4), (0x1000, 16)] := by decide +kernel

/-- Four threads at addresses `base` + `stride` j in x2 and x3. -/
def lG (base stride : Nat) : Line :=
  { tLine 4 0 with threads := (List.range 4).map fun j =>
      { tThread j with x := ((Vector.ofFn fun n => BitVec.ofNat 32 (n.val * 16 + j)).set 2 (BitVec.ofNat 32 (base + stride * j))).set 3 0 } }
/-- An .acq load of one thread; `.take` loads of four threads in one granule. -/
theorem wit_LocalAccesses_acq : IssuesAll (sOf lOne) lOne ∧ lOne.issueThreads.length ≤ 1 ∧ lOne.okX false 4 = true ∧ lOne.okX false 2 = true ∧
    lOne.okK false 0 = true ∧ readyRegs lOne (2 :: regs false 4) [0] ∧ (sOf lOne).acquiring lOne.ref = false ∧ (sOf lOne).awaitsTag lOne = false ∧
    ∀ j ∈ lOne.issueThreads, (lOne.x j 2 + lOne.kr 0).toNat = 0x1000 := by decide +kernel
theorem wit_TakeLoadsAndLocalAtomics_run : let l := lG 0x40 4
    IssuesAll (sOf l) l ∧ l.issueThreads = [0, 1, 2, 3] ∧ l.okX false 6 = true ∧ l.okX false 2 = true ∧ l.okK false 0 = true ∧ readyRegs l (2 :: regs false 6) [0] ∧
    l.takeRun = none ∧ (∀ j ∈ l.issueThreads, (l.x j 2 + l.kr 0).toNat = 0x40 + 4 * j ∧ (0x40 + 4 * j) / 16 = 4) ∧ (sOf l).readsHeld l = false ∧
    (sOf l).unconfirmed l.ref = false ∧ (sOf l).bankLoad tSet.core (4 % 32) + l.issueThreads.length ≤ 16 := by decide +kernel
/-- Addresses with a bit above their space, misaligned ones, ones beyond the window or at a member that the hall has not, and a barrier granule. -/
theorem wit_LocalAccesses_faults : (Issues (sOf lOne) lOne ∧ lOne.issueThreads = 0 :: [] ∧ (sOf lOne).unconfirmed lOne.ref = false ∧
      (sOf lOne).cset (setOf lOne.ref) = some tSet ∧ lOne.okX false 4 = true ∧ lOne.okX false 2 = true ∧ lOne.okX false 5 = true ∧ readyRegs lOne [2, 4, 5] [0, 4] ∧
      atomTypes .add lOne.ty = true ∧ lOne.okK false 4 = true ∧ lOne.status ≠ .wait .filled ∧ lOne.okX lOne.ty.dbl 5 = true) ∧
    (∀ x ∈ [0x100000, 0x800000, 0x101, 0x10000, 0x110000, 0x40], let l := { lG x 0 with active := 1, k := (Vector.replicate 16 0).set 4 (BitVec.ofNat 32 x) }
      Issues (sOf l) l ∧ l.issueThreads = 0 :: [] ∧ (l.x 0 2).toNat = x ∧ (l.x 0 2 + l.kr 0).toNat = x ∧ (l.kr 4).toNat = x) ∧
    ((sOf lOne).member tSet 1 = none ∧ (sOf lOne).member tSet 0 = some tSet ∧ tSet.win ≤ 0x10000 ∧ 0x101 % Width.w.bytes ≠ 0 ∧ 0x101 % 16 < 2 ∧ ¬ 0x108 % 16 < 2) ∧
    (let c := { tSet with marks := [4] }
     let s := { sOf lOne with sets := [c] }
     s.cset (setOf lOne.ref) = some c ∧ c.isMark (0x40 / 16) = true ∧ s.member c 0 = some c ∧ s.acquiring lOne.ref = false ∧ s.readsHeld lOne = false ∧
     s.barPending c.ref 4 = false) := by decide +kernel
theorem test_lds_beyond : (match exec (.lds .any .w false (.r 4) (.r 2) (.r 0)) (sOf { lG 0x10000 0 with active := 1 }) with
    | .next t => t.lines.map fun l => (l.status, l.record.cls, l.record.addr)
    | _ => []) = [(.trapped, 0x06, 0x10000)] := by decide +kernel
theorem test_take_run : (match exec (.lds .take .w false (.r 6) (.r 2) (.r 0)) (sOf (lG 0x40 4)) with
    | .next t => t.bankQ.map fun q => (q.off, q.size, q.run)
    | _ => []) = [(0x40, 4, 2), (0x44, 4, 2), (0x48, 4, 2), (0x4C, 4, 2), (0x40, 16, 2)] := by decide +kernel

/-- The page of address 0x1000 maps to device address 0x1_0000_0000 with every permission, in core 0's TLB. -/
def tEnt : TlbEnt := { core := some 0, die := 0, part := 0, peer := false, level := 0, vpn := 0, entry := 0x100000017, expiry := 9000, lines := [] }
def sTlb (l : Line) : State := { sOf l with tlb := [tEnt] }
theorem wit_GlobalLoadsTravel : (Issues (sTlb lOne) lOne ∧ lOne.issueThreads = [0] ∧ lOne.okX false 4 = true ∧ lOne.okX true 2 = true ∧ lOne.okK false 0 = true ∧
      readyRegs lOne (regs true 2 ++ regs false 4) [0] ∧ (lOne.xd 0 2 + (lOne.kr 0).signExtend 64).toNat = 0x1000 ∧ 0x1000 % Width.w.bytes = 0 ∧
      (sTlb lOne).readsHeld lOne = false ∧ (sTlb lOne).walking lOne.ref = false ∧ (sTlb lOne).unconfirmed lOne.ref = false ∧ lOne.takeRun = none ∧
      (sTlb lOne).translate (some lOne.core) (coreDie lOne.core) lOne.part false 0x1000 false (!lOne.pl) = .hit (.dev 0x100001000) [] ∧
      (sTlb lOne).l1Hit lOne.core (lineOf 0x100001000) = none ∧ lOne.fetched = []) ∧
    (∀ bad ∈ [[], [1], [0]], let e : L1Line := { core := 0, line := 0x100001000 / 128, bytes := List.replicate 128 7, expiry := 9000, bad := bad }
     let s := { sTlb lOne with l1 := [e] }
     Issues s lOne ∧ s.l1Hit lOne.core (lineOf 0x100001000) = some e ∧ s.flight = [] ∧ meetsBad e.bad (0x100001000 % 128) 4 = decide (bad = [0])) ∧
    (let l : Line := { lOne with k := lOne.k.set 2 2 }
     (l.xd 0 2 + (l.kr 2).signExtend 64).toNat % Width.w.bytes ≠ 0) ∧
    (let l : Line := { lOne with k := lOne.k.set 2 0x80000000 }
     2 ^ 57 ≤ (l.xd 0 2 + (l.kr 2).signExtend 64).toNat) := by decide +kernel
theorem test_ldg_sent : (match exec (.ldg false .w false (.r 4) (.r 2) (.r 0)) (sTlb lOne) with
    | .next t => (t.flight.map fun a => (a.place, a.phase), t.lines.map Line.pend)
    | _ => ([], [])) = ([(.dev 0x100001000, .sent)], [[(0, 4)]]) := by decide +kernel

theorem wit_GlobalLoadsTravel_threads : let l := lG 0x1000 64
    IssuesAll (sTlb l) l ∧ l.okX false 6 = true ∧ l.okX true 2 = true ∧ l.okK false 0 = true ∧ readyRegs l (regs true 2 ++ regs false 6) [0] ∧ l.fetched = [] ∧
    (sTlb l).readsHeld l = false ∧ (sTlb l).walking l.ref = false ∧ l.takeRun = none ∧ l.issueThreads = [0, 1, 2, 3] ∧
    ∀ j ∈ l.issueThreads, (l.xd j 2 + (l.kr 0).signExtend 64).toNat = 0x1000 + 64 * j ∧ 0x1000 + 64 * j < 2 ^ 57 ∧ (0x1000 + 64 * j) % Width.w.bytes = 0 ∧
      (sTlb l).translate (some l.core) (coreDie l.core) l.part false (0x1000 + 64 * j) false (!l.pl) = .hit (.dev (0x100001000 + 64 * j)) [] ∧
      (sTlb l).l1Hit l.core (lineOf (0x100001000 + 64 * j)) = none := by decide +kernel
theorem wit_GlobalWritesTravel_threads : let l := lG 0x1000 64
    IssuesAll (sTlb l) l ∧ (sTlb l).acquiring l.ref = false ∧ l.takeRun = none ∧ (sTlb l).grid l.ref.grid = some (wordGrid 1) ∧
    bit ((wordGrid 1).pkt.getD 0 0) 7 = false ∧ l.okX true 2 = true ∧ l.okX false 6 = true ∧ l.okK false 0 = true ∧ l.okX false 8 = true ∧
    readyRegs l (regs true 2 ++ regs false 8 ++ regs false 6) [0] ∧ (sTlb l).awaitsTag l = false ∧ atomTypes .add l.ty = true ∧ l.ty.dbl = false ∧
    ∀ j ∈ l.issueThreads, (l.xd j 2).toNat = 0x1000 + 64 * j ∧ (l.xd j 2 + (l.kr 0).signExtend 64).toNat = 0x1000 + 64 * j ∧ 0x1000 + 64 * j < 2 ^ 57 ∧
      (0x1000 + 64 * j) % 4 = 0 ∧
      (sTlb l).translate (some l.core) (coreDie l.core) l.part false (0x1000 + 64 * j) true (!l.pl) = .hit (.dev (0x100001000 + 64 * j)) [] ∧
      ((sTlb l).part l.part).regionRefuses (0x100001000 + 64 * j) 1 l.gtag (some 0) = false := by decide +kernel
theorem wit_GlobalWritesTravel : (∀ s ∈ [sTlb lOne, sOf lOne], Issues s lOne ∧ lOne.issueThreads = [0] ∧ s.acquiring lOne.ref = false ∧ s.awaitsTag lOne = false ∧ lOne.takeRun = none ∧
      s.grid lOne.ref.grid = some (wordGrid 1) ∧ bit ((wordGrid 1).pkt.getD 0 0) 7 = false ∧
      lOne.okX false 4 = true ∧ lOne.okX true 2 = true ∧ lOne.okK false 0 = true ∧ readyRegs lOne (regs true 2 ++ regs false 4) [0]) ∧
    ((lOne.xd 0 2 + (lOne.kr 0).signExtend 64).toNat < 2 ^ 57 ∧ (lOne.xd 0 2 + (lOne.kr 0).signExtend 64).toNat % Width.w.bytes = 0 ∧
      atomTypes .add lOne.ty = true ∧ readyRegs lOne (regs true 2 ++ regs false 5 ++ regs false 4) [] ∧ (lOne.xd 0 2).toNat % (lOne.ty.bits / 8) = 0) ∧
    (sTlb lOne).translate (some lOne.core) (coreDie lOne.core) lOne.part false 0x1000 true (!lOne.pl) = .hit (.dev 0x100001000) [] ∧
    ((sTlb lOne).part lOne.part).regionRefuses 0x100001000 1 lOne.gtag (some 0) = false ∧
    (sOf lOne).translate (some lOne.core) (coreDie lOne.core) lOne.part false 0x1000 true (!lOne.pl) = .miss :=
  ⟨by decide +kernel, by decide +kernel, by decide +kernel, by decide +kernel, by decide +kernel⟩

/-- Package 0 with its domain number given and its time base locked: its own dies are reachable. -/
def sNet (l : Line) : State := { sOf l with pkg := { Package.reset with didv := true, tblock := true } }
theorem wit_PeerAccessesEnterTheSendQueue : (∀ s ∈ [sNet lOne, sOf lOne], Issues s lOne ∧ lOne.issueThreads = [0] ∧ s.acquiring lOne.ref = false ∧ s.awaitsTag lOne = false ∧
      s.unconfirmed lOne.ref = false ∧ lOne.takeRun = none ∧ s.fab.sendQ = [] ∧
      lOne.okX true 2 = true ∧ lOne.okX false 4 = true ∧ lOne.okK false 0 = true ∧ lOne.okX false 5 = true ∧
      readyRegs lOne (regs true 2 ++ regs false 5 ++ regs false 4) [0] ∧ 0x1000 % Width.w.bytes = 0 ∧ atomTypes .add lOne.ty = true ∧ lOne.ty = .s32 ∧
      fld (lOne.kr 0) 24 8 = 0 ∧ fld (lOne.kr 0) 0 12 ≤ fld (lOne.kr 0) 12 12 ∧ (lOne.xd 0 2).toNat = 0x1000) ∧
    (sNet lOne).reachable 0 (peerPkg 0x1000) (peerDie 0x1000) = true ∧ (sOf lOne).reachable 0 (peerPkg 0x1000) (peerDie 0x1000) = false ∧
    (∀ q ∈ [(2, byteMask 0x1000 4), (1, byteMask 0x1000 4), (4, byteMask 0x1000 4), (6, 1)],
      (sNet lOne).sendRoom (coreDie lOne.core) lOne.part (packetLen q.1 q.2 false) = true ∧
      { sNet lOne with parts := State.reset.parts.set 0 { Partition.reset true with sbuf := 0 } }.sendRoom (coreDie lOne.core) lOne.part (packetLen q.1 q.2 false) = false) := by
  decide +kernel
/-- Four threads that address one line at different elements, and four of one line for an ATP. -/
theorem wit_PeerAccessesEnterTheSendQueue_threads : let l := lG 0x1000 4
    IssuesAll (sNet l) l ∧ l.issueThreads = 0 :: [1, 2, 3] ∧ (sNet l).acquiring l.ref = false ∧ (sNet l).unconfirmed l.ref = false ∧ l.takeRun = none ∧
    (sNet l).fab.sendQ = [] ∧ l.okX true 2 = true ∧ l.okK false 0 = true ∧ l.okX false 6 = true ∧ l.okX false 8 = true ∧ (sNet l).awaitsTag l = false ∧
    readyRegs l (regs true 2 ++ regs false 8 ++ regs false 6) [0] ∧ l.ty = .s32 ∧ atomTypes .add l.ty = true ∧ fld (l.kr 0) 24 8 = 0 ∧
    fld (l.kr 0) 0 12 ≤ fld (l.kr 0) 12 12 ∧
    (∀ j ∈ l.issueThreads, (l.xd j 2).toNat = 0x1000 + 4 * j ∧ (l.xd j 2 + (l.kr 0).signExtend 64).toNat = 0x1000 + 4 * j ∧ (0x1000 + 4 * j) / 128 = 32 ∧
      (0x1000 + 4 * j) % 4 = 0 ∧ (sNet l).reachable l.part (peerPkg (0x1000 + 4 * j)) (peerDie (0x1000 + 4 * j)) = true) ∧
    ((sNet l).sendRoom (coreDie l.core) l.part (packetLen 1 0xFFFF false) = true ∧ (sNet l).sendRoom (coreDie l.core) l.part (packetLen 2 0xFFFF false) = true ∧
      (sNet l).sendRoom (coreDie l.core) l.part (packetLen 6 0xF false) = true ∧ (sNet l).sendRoom (coreDie l.core) l.part (32 * 4) = true) := by decide +kernel
/-- One packet for the four threads' words (R259, R334). -/
theorem test_stp_gathers : (match exec (.stp none .w (.r 6) (.r 2) (.r 0)) (sNet (lG 0x1000 4)) with
    | .next t => t.fab.sendQ.map fun e => match e.item with | .packet p => (p.addr, p.mask, p.data.take 8) | _ => (0, 0, [])
    | _ => []) = [(0x1000, 0xFFFF, [0x60, 0, 0, 0, 0x61, 0, 0, 0])] := by decide +kernel
theorem test_stp : (match exec (.stp none .w (.r 4) (.r 2) (.r 0)) (sNet lOne) with
    | .next t => t.fab.sendQ.map fun e => match e.item with | .packet p => (p.ty, p.addr, p.mask) | _ => (0, 0, 0)
    | _ => []) = [(1, 0x1000, 0xF)] := by decide +kernel

/-- A line with an unperformed store behind it, so that its fences wait. -/
def tAcc (ph : AccPhase) (k : AccKind) : Access :=
  { id := 1, issuer := .line lOne.ref 0, part := 0, grid := 1, set := 0, core := 0, kind := k, phase := ph, va := 0x1000, place := .dev 0x100001000
    size := 4, val := 0x11223344, cmp := 0, dst := if k = .store then none else some 4, sx := false, acq := false, rel := none, staged := false
    prov := false, ino := 0, pc := 0, word := 0, check := [], trans := [], failed := none }
theorem wit_FencesAndTheirCompletion : (Issues (sOf lOne) lOne ∧ lOne.takeRun = none ∧ lOne.failed = [] ∧ lOne.errs = [] ∧
      (∀ sc ∈ [Scope.line, .set, .hall, .dev, .dom], (sOf lOne).fenceOk lOne sc (sOf lOne).nextId = true) ∧ (sOf lOne).unconfirmed lOne.ref = false ∧
      (sOf lOne).qfenceOk lOne 0x3F = true ∧ (sOf lOne).ifenceOk lOne = true ∧ lOne.okK false 2 = true ∧ lOne.okK false 3 = true ∧
      readyRegs lOne [] [2, 3] ∧ fld (lOne.kr 2) 13 19 = 0 ∧ (sOf lOne).acquiring lOne.ref = false) ∧
    (let s := { sOf lOne with flight := [tAcc .sent .store] }
     Issues s lOne ∧ s.fenceOk lOne .dev s.nextId = false) ∧
    (let l : Line := { lOne with status := .wait (.fence .dev) }
     (sOf l).line l.ref = some l ∧ (sOf l).fenceOk l .dev (sOf l).nextId = true ∧ (sOf l).stopping l.ref = false ∧
     { sOf l with sets := [{ tSet with phase := .stopping }] }.stopping l.ref = true ∧
     { sOf l with flight := [tAcc .sent .store] }.fenceOk l .dev 2 = false) := by decide +kernel

theorem wit_BarrierInstructionsEnterTheirStep : (Issues (sOf lOne) lOne ∧ (sOf lOne).acquiring lOne.ref = false ∧ lOne.issueThreads.head? = some 0 ∧
      lOne.okX false 2 = true ∧ lOne.okX false 5 = true ∧ readyRegs lOne [2, 5] [] ∧ (sOf lOne).unconfirmed lOne.ref = false ∧ (lOne.x 0 2).toNat = 0x1000 ∧
      (sOf lOne).bankLoad tSet.core (CSet.bankOf 0x1000) < 16 ∧ 0x1000 < 0x100000 ∧ 0x1000 % 16 = 0 ∧ (sOf lOne).fenceOk lOne .set (sOf lOne).nextId = true ∧
      lOne.okK false 4 = true ∧ readyRegs lOne [] [4] ∧ lOne.kr 4 = 16 ∧ tSet.isMark 1 = false ∧ (sOf lOne).ownBank lOne.ref tSet.ref 1 = false ∧
      (sOf lOne).bankBusy tSet 16 = false ∧ lOne.status ≠ .wait .filled ∧ tSet.isFull 1 = false ∧ (tSet.setFull 1).isFull 1 = true ∧
      (let l : Line := { lOne with status := .wait .filled }
       Issues (sOf l) l ∧ l.status = .wait .filled ∧ (sOf l).acquiring l.ref = false ∧ l.okK false 4 = true ∧ readyRegs l [] [4])) ∧
    (∀ gal, (sOf lOne).localAddr lOne gal (0x1000 / 16 * 16) 1 = .ok (tSet, 0x1000)) ∧ (∀ gal, (sOf lOne).localAddr lOne gal 16 16 = .ok (tSet, 16)) :=
  ⟨by decide +kernel, fun gal => by cases gal <;> rfl, fun gal => by cases gal <;> rfl⟩

/-- One request in bank 2 of core 0, on granule 2 of the set. -/
def tReq (op : BankOp) (v size : Nat) : BankReq :=
  { id := 1, issuer := lOne.ref, thread := 0, set := tSet.ref, off := 0x20, size, op, val := v, run := 5, pc := 0, word := 0 }
def sBank (c : CSet) (op : BankOp) (v size : Nat) : State := { sOf lOne with sets := [c], bankQ := [tReq op v size] }
def tBar (b : BarObj) : CSet := { tSet with marks := [2] }.setBar 2 b
def bar1 : BarObj := { txc := 0, ainit := 2, aleft := 1, phase := false, valid := true, inval := false, err := 0, wait := 0, phcnt := 0 }
theorem wit_BanksServe : (∀ c ∈ [tSet, tSet.setFull 2, (tSet.setFull 2).take 2 5],
      (sBank c .clear 0 16).cset tSet.ref = some c ∧ c.ref = tSet.ref ∧ (sBank c .clear 0 16).line lOne.ref = some lOne ∧ (tReq .clear 0 16).held = false ∧ (sBank c .clear 0 16).waitQ = [] ∧ (sBank c .clear 0 16).fab.sendQ = [] ∧
      (∀ m ∈ (sBank c .clear 0 16).lines, m.status ≠ .ended) ∧ (∀ x ∈ (sBank c .clear 0 16).sets, x.phase ≠ .ended) ∧
      c.badGran.contains 2 = false ∧ c.isMark 2 = false ∧ Memory.wf c.spad = true) ∧
    ((tSet.setFull 2).available 2 5 = true ∧ (tSet.setFull 2).isFull 2 = true ∧ (tSet.setFull 2).holder 2 = none ∧ tSet.isFull 2 = false ∧
      tSet.available 2 5 = false ∧ ((tSet.setFull 2).take 2 5).holder 2 = some 5) ∧
    (let l : Line := { lOne with status := .wait .barStep }
     let s := { sBank (tBar bar1) .barArrive 0 16 with lines := [l] }
     s.sets = [tBar bar1] ∧ s.line lOne.ref = some l ∧ (∀ m ∈ s.lines, m.status ≠ .ended) ∧ (tBar bar1).phase = .resident ∧ l.issueMask = [0] ∧ l.takeRun = none ∧
     0x20 % 16 = 0 ∧ Memory.wf (tBar bar1).spad = true ∧ ((tBar bar1).bar 2) = bar1 ∧ bar1.valid = true ∧ 1 ≤ bar1.aleft ∧
     -(2 ^ 31 : Int) ≤ bar1.txc + (BitVec.ofNat 32 0x7FFFFFFF).toInt ∧ bar1.txc + (BitVec.ofNat 32 0x7FFFFFFF).toInt ≤ 2 ^ 31 - 1 ∧
     (tBar bar1).badGran.contains 2 = false ∧ s.copyQ = [] ∧ s.waitQ = [] ∧ s.fab.sendQ = [] ∧ bar1.inval = false ∧ bar1.phase ≠ decide (1 = 1) ∧ bar1.phase = decide (0 = 1) ∧ bar1.wait < 65535 ∧ (tSet.bar 2).valid = false) := by decide +kernel
/-- Barriers that a step faults on: one in use, one that has no arrival left, one whose byte count would leave its range, one that is not valid, one that
was invalidated. -/
theorem wit_BanksServe_faults :
    (∀ b ∈ [bar1, { bar1 with aleft := 0 }, { bar1 with valid := false }, { bar1 with valid := false, inval := true }, { bar1 with aleft := 2 }], let c := tBar b
      let l : Line := { lOne with status := .wait .barStep }
      ∀ op ∈ [BankOp.barInit, .barArrive, .barInv, .barWait 1], let s := { sBank c op 0x7FFFFFFF 16 with lines := [l] }
      s.sets = [c] ∧ c.ref = (tReq op 0 16).set ∧ s.line (tReq op 0 16).issuer = some l ∧ s.copyQ = [] ∧ c.phase = .resident ∧ l.issueMask = [0] ∧
      c.bar 2 = b ∧ c.isMark 2 = true ∧ c.badGran.contains 2 = false ∧ Memory.wf c.spad = true) ∧
    ¬ (bar1.wait = 0 ∧ bar1.txc = 0 ∧ bar1.aleft = bar1.ainit) ∧ (let b := { bar1 with aleft := 2 }; b.wait = 0 ∧ b.txc = 0 ∧ b.aleft = b.ainit) ∧
    65535 < 0x7FFFFFFF ∧ ({ bar1 with aleft := 0 } : BarObj).aleft < 1 ∧ (2 ^ 31 : Int) - 1 < 1 + (BitVec.ofNat 32 0x7FFFFFFF).toInt ∧
    (1 + (BitVec.ofNat 32 0x80000000).toInt - 2 : Int) < -(2 ^ 31 : Int) := by decide +kernel
theorem test_barinit_busy : (match exec (.bankServe 0 2) { sBank (tBar bar1) .barInit 1 16 with lines := [{ lOne with status := .wait .barStep }] } with
    | .next t => (t.lines.map fun l => (l.status, l.record.cls), t.sets.map fun c => (c.bar 2).aleft)
    | _ => ([], [])) = ([(.trapped, 0x0D)], [1]) := by decide +kernel
theorem test_bank_load : (match exec (.bankServe 0 2) (sBank (tSet.write 0x20 [1, 2, 3, 4]) (.load .any (some 4) false false) 0 4) with
    | .next t => (t.flight.map Access.val, t.bankQ.length)
    | _ => ([], 0)) = ([0x04030201], 0) := by decide +kernel
theorem test_bank_arrive : (match exec (.bankServe 0 2) { sBank (tBar bar1) .barArrive 0 16 with lines := [{ lOne with status := .wait .barStep }] } with
    | .next t => t.sets.map fun c => ((c.bar 2).phase, (c.bar 2).aleft, (c.bar 2).phcnt)
    | _ => []) = [(true, 2, 1)] := by decide +kernel

abbrev lSb : Line := { lOne with k := (Vector.replicate 16 0).set 2 3 }
theorem wit_StreamControlAndCopy : (Issues (sOf lSb) lSb ∧ (sOf lSb).cset (setOf lSb.ref) = some tSet ∧ (sOf lSb).unconfirmed lSb.ref = false ∧
      (6 : Fin 32).val + 9 < lSb.kregs ∧ readyRegs lSb [] ((List.range 10).map (6 + ·)) ∧ (15 : Fin 16).val < lSb.nports ∧ (lSb.port 15).held = none ∧
      descIllegal tSet.slots[31] true = false ∧ (3 : Fin 8) ≠ 0 ∧ lSb.okK false 2 = true ∧ lSb.okK false 3 = true ∧ readyRegs lSb [] [2, 3] ∧
      (sOf lSb).acquiring lSb.ref = false) ∧
    ((sOf lPop).quantum = 0 ∧ (lPop.port 2).bound = true ∧ (lPop.port 2).held = none ∧ Issues (sOf lPop) lPop ∧ (2 : Fin 16).val < lPop.nports) ∧
    (let c := { tSet with slots := (tSet.slots.set 3 (tPort false 4 0 0 0).desc).set 0 (tPort true 4 0 0 0).desc }
     let s := { sOf lSb with sets := [c] }
     Issues s lSb ∧ s.cset (setOf lSb.ref) = some c ∧
     (s.copyQ.filter fun (o : CopyOp) => decide (o.core = lSb.core) && decide (o.queue = 3)).length < 32 ∧
     s.copyIllegal c (lSb.kr 2) (lSb.kr 0) (c.slots.getD (fld (lSb.kr 2) 0 5) (Vector.replicate 10 0)) (c.slots.getD (fld (lSb.kr 0) 0 5) (Vector.replicate 10 0)) = false) ∧
    (sOf lSb).copyIllegal tSet (lSb.kr 2) (lSb.kr 0) (tPort false 4 0 0 0).desc (Vector.replicate 10 0) = true := by decide +kernel

/-- A copy of four words from 0x40 to 0x80 of the set's window. -/
def tMove (st : OpState) (n : Nat) (ben : Bool) : CopyOp :=
  { tCopy st with issuer := lOne.ref, src := (tPort false 4 0 0 0).desc, dst := (tPort true 4 0 0 0).desc.set 0 0x80, n := n, ben := ben, bgr := 2 }
def sMove (c : CSet) (st : OpState) (n : Nat) (ben : Bool) : State := { sOf lOne with sets := [c], copyQ := [tMove st n ben] }
theorem wit_CopiesMoveElementByElement : (let s := sMove tSet .queued 0 false
      s.sets = [tSet] ∧ tSet.ref = setOf (tMove .queued 0 false).issuer ∧ (tMove .queued 0 false).queue = (3 : Fin 4).val ∧ tSet.phase = .resident ∧
      (∀ l ∈ s.lines, l.status ≠ .ended) ∧ (tMove .queued 0 false).held = none ∧ (tMove .queued 0 false).grant = none ∧ s.flight = [] ∧ s.bankQ = [] ∧ s.waitQ = [] ∧ s.fab.waits = []) ∧
    (let o := tMove .started 3 false
     o.mmask = 0 ∧ descSpace o.src = 1 ∧ descSpace o.dst = 1 ∧ descTag o.src = 0 ∧ descElem o.src o.n = .at_ 0x4C ∧ descElem o.dst o.n = .at_ 0x8C ∧
     0x4C < tSet.win ∧ 0x8C < tSet.win ∧ tSet.badGran.contains (0x4C / 16) = false ∧ tSet.isMark (0x8C / 16) = false ∧
     descEsize o.src = descEsize o.dst ∧ descEsize o.dst ≤ 3 ∧ 0x8C % 2 ^ descEsize o.dst = 0) ∧
    (let o := tMove (.written 4000) 4 true
     let c := tBar bar1
     4000 ≤ (sMove c o.state 4 true).time ∧ (sMove c o.state 4 true).tabDone o.late = true ∧ (sMove c o.state 4 true).bankQ = [] ∧ c.badGran.contains o.bgr = false ∧ descSpace o.dst ≠ 2 ∧ c.isMark o.bgr = true ∧ (c.bar o.bgr).valid = true ∧ 0 < (c.bar o.bgr).aleft ∧
     Memory.wf c.spad = true ∧ -(2 ^ 31 : Int) ≤ (c.bar o.bgr).txc - (descTotal o.dst * 2 ^ descEsize o.dst : Nat) ∧
     (c.bar o.bgr).txc - (descTotal o.dst * 2 ^ descEsize o.dst : Nat) ≤ 2 ^ 31 - 1) ∧ (sOf lOne).time < 6000 := by decide +kernel
theorem test_copy_element : (match exec (.copyElement 0 3) (sMove (tSet.write 0x4C [9, 8, 7, 6]) .started 3 false) with
    | .next t => (t.sets.map fun c => c.read 0x8C 4, t.copyQ.map CopyOp.state)
    | _ => ([], [])) = ([0x06070809], [.written 0]) := by decide +kernel

/-! ### Matrix instructions -/

/-- A line of four threads with these k registers, of a TYPE. -/
def tMat (ty : Nat) (k : Vector Word 16) : Line := { tLine 4 ty with k := k }
/-- k0 0, k1 0x20 (D1 with DEF), k2 8 (a reserved bit of D0), k3 0x20, k4 0, k5 an epilogue word of pitch 512, k6 0x1000, k7 0, k8 0x100, k9 3, k10 an MMA word (row pitch 16, K 8,
one row), k11 the same without a pitch. -/
def kMat : Vector Word 16 := #v[0, 0x20, 8, 0x20, 0, 0x800000, 0x1000, 0, 0x100, 3, 0x10700, 0x700, 0, 0, 0, 0]
abbrev lMat : Line := tMat 4 kMat
abbrev lMatF : Line := tMat 8 kMat
abbrev lMat1 : Line := { lMat with ref := { grid := 1, set := 0, line := 1 }, lane := 1 }
/-- MMAS words: x at 0x200, one row of one element, pitch 256, y at 0x300. -/
def tDesc : Vector Word 4 := #v[0x200, 0, 1, 0x300]
def cDesc : CSet := tSet.write 0x100 (bytesOf 0x200 4 ++ bytesOf 0 4 ++ bytesOf 1 4 ++ bytesOf 0x300 4)
theorem wit_MatrixEntry : (Issues (sOf lMat) lMat ∧ lMat.fullMask = true ∧ (sOf lMat).unconfirmed lMat.ref = false ∧ (sOf lMat).cset (setOf lMat.ref) = some tSet ∧
      readyRegs lMat [] [0, 1, 2, 3] ∧ (2 : Nat) + 1 < lMat.kregs ∧ stairIllegal (lMat.kr 0) (lMat.kr 1) = false ∧ stairIllegal (lMat.kr 2) (lMat.kr 3) = true) ∧
    (let s := { sOf lMat with lines := [lMat, lMat1] }
     Issues s lMat ∧ lMat.okK false 9 = true ∧ readyRegs lMat [] [9] ∧ tSet.qdst = 0 ∧ fld (lMat.kr 9) 16 16 = 0 ∧ popCount (fld (lMat.kr 9) 0 16) = 2 ∧
     s.holdsLines (setOf lMat.ref) 3 = true ∧ fld (lMat.kr 9) 0 16 = 3 ∧ Nat.testBit 3 lMat.ref.line = true) ∧
    ((sOf lMat).matQ = [] ∧ lMat.okK false 4 = true ∧ lMat.okK false 5 = true ∧ readyRegs lMat [] [4, 5] ∧ bit (lMat.kr 5) 5 = false ∧ bit (lMat.kr 5) 6 = false ∧
      mdrainFault tSet 3 (lMat.kr 4) 0 (lMat.kr 5) = none ∧ (sOf lMat).acquiring lMat.ref = false ∧ (sOf lMat).drainLen lMat.core < 16) ∧
    (∀ c ∈ [tSet, cDesc], let s := { sOf lMatF with sets := [c] }
      Issues s lMatF ∧ lMatF.fullMask = true ∧ s.unconfirmed lMatF.ref = false ∧ s.cset (setOf lMatF.ref) = some c ∧ (6 : Nat) + 1 < lMatF.kregs ∧
      lMatF.okK false 8 = true ∧ readyRegs lMatF [] [6, 7, 8] ∧ mmasTypes lMatF = true ∧ stairDef lMatF.d1 = true ∧ 0x1000 < 2 ^ 57 ∧ 0x1000 % 256 = 0 ∧
      (lMatF.kr 7).toNat * 2 ^ 32 + (lMatF.kr 6).toNat = 0x1000 ∧ (lMatF.kr 8).toNat = 0x100 ∧ 0x100 + 16 ≤ c.win ∧ s.acquiring lMatF.ref = false ∧
      s.bankBusy c 0x100 = false ∧ s.ownBank lMatF.ref c.ref 16 = false ∧ c.badGran.contains 16 = false ∧ 0x100 < 2 ^ 20 ∧ 0x100 % 16 = 0 ∧ s.drainLen lMatF.core < 16) ∧
    ((∀ i : Fin 4, tDesc[i] = BitVec.ofNat 32 (cDesc.read (0x100 + 4 * i) 4)) ∧ mmasFault cDesc .f32 0x1000 tDesc = none ∧
      (∀ i : Fin 4, (Vector.replicate 4 (0 : Word))[i] = BitVec.ofNat 32 (tSet.read (0x100 + 4 * i) 4)) ∧ mmasFault tSet .f32 0x1000 (Vector.replicate 4 0) = some { cls := 0x19 }) ∧
    (let l := { lMatF with active := 7, ports := lMatF.ports.set 2 { tPort false 4 0 0 0 with desc := (tPort false 4 0 0 0).desc.set 2 0x30003 } }
     Issues (sOf l) l ∧ l.okPortA (.q 2) = true ∧ l.fullMask = false ∧ (sOf l).unconfirmed l.ref = false ∧ mmaTypes l = true ∧ mmasTypes l = true ∧ (6 : Nat) + 1 < l.kregs ∧ l.okK false 8 = true ∧ 8 ∉ l.kpend) :=
  ⟨by decide +kernel, by decide +kernel, by decide +kernel, by decide +kernel, by decide +kernel, by decide +kernel⟩

/-- One operation in the matrix queue of core 0. -/
def tMop (k : MatKind) : MatOp := { id := 1, core := 0, issuer := lMat.ref, kind := k }
def tDrain (k : DrainKind) : DrainOp :=
  { id := 7, core := 0, issuer := lMat.ref, part := 0, rph := 0, det := false, kind := k, n := 0, state := .queued }
/-- The tile 2 of a set, with element (0, 5) and (1, 0) given. -/
def cTile : CSet := { tSet with tiles := tSet.tiles.set 2 [(5, 77), (128, 9)] }
def sMat (c : CSet) (k : MatKind) : State := { sOf lMat with sets := [c], matQ := [tMop k] }
theorem wit_MatrixQueueActs : (∀ k ∈ [MatKind.mswap, .mzero 2, .mstat 31 true 14, .mread 7], let s := sMat cTile k
      s.matQ = [tMop k] ∧ s.runs = [] ∧ s.loads = [] ∧ s.sets = [cTile] ∧ cTile.ref = setOf (tMop k).issuer ∧ cTile.phase = .resident ∧ (∀ l ∈ s.lines, l.status ≠ .ended)) ∧
    (let l := { lMat with kpend := [14, 15] }
     let s := { sMat cTile (.mstat 31 true 14) with lines := [l] }
     31 < 32 ∧ 14 + 1 < 16 ∧ s.drainQ = [] ∧ s.lines = [l] ∧ l.ref = (tMop .mswap).issuer ∧ s.flight = [] ∧ l.kpend = [14, 15]) ∧
    (let e := tDrain (.mdrain 2 0 0 0x180 0 [] false)
     { sMat cTile (.mread 7) with drainQ := [e] }.drainQ = [e] ∧ e.id = 7 ∧ fld (0x180 : Word) 16 2 ≠ 1 ∧ bit (0x180 : Word) 7 = true ∧ fld (0x180 : Word) 8 7 = 1) := by decide +kernel
theorem test_mzero : (match exec (.matrixQueueEffect 0) (sMat cTile (.mzero 2)) with
    | .next t => t.sets.map fun c => (c.tile 2).at_ 0 5
    | _ => []) = [0] := by decide +kernel
theorem test_mdrain_read : (match exec (.matrixQueueEffect 0) { sMat cTile (.mread 7) with drainQ := [tDrain (.mdrain 2 0 0 0x180 0 [] false)] } with
    | .next t => (t.sets.map fun c => c.tile 2, t.drainQ.map fun o => match o.kind with | .mdrain _ _ _ _ _ vs _ => (vs.length, vs[5]?, vs[128]?) | _ => (0, none, none))
    | _ => ([], [])) = ([[]], [(256, some 77, some 9)]) := by decide +kernel

/-- The stored rows of a dense .s8 plane that holds 3 in row 0, column 0 and 2 in row 1, column 0. -/
def tPlane : Plane :=
  { kind := some { ty := .s8, sp24 := false, mx := false, grp := 32 }, rows := 3 :: (List.replicate 127 0 ++ 2 :: List.replicate 127 0), info := [] }
def cMat : CSet := { cTile with active := tPlane }
/-- The port q2 reads eight bytes of the window at 0x40. -/
abbrev lMatPort : Line :=
  { lMat with ports := (Vector.replicate 16 Port.unbound).set 2 { tPort false 4 0 0 0 with desc := (tPort false 4 0 0 0).desc.set 2 0x30003 } }
abbrev lMx : Line := { tMat 3 kMat with lmode := 0x30 }
theorem wit_PlanesAndIssue : (∀ l ∈ [lMat, lMx, lMatPort], ∀ c ∈ [tSet, cMat], let s := { sOf l with sets := [c] }
      Issues s l ∧ l.fullMask = true ∧ l.okK false 4 = true ∧ l.okK false 6 = true ∧ l.okK false 10 = true ∧ l.okK false 11 = true ∧ readyRegs l [] [4, 6, 10, 11] ∧
      s.acquiring l.ref = false ∧ s.unconfirmed l.ref = false ∧ s.cset (setOf l.ref) = some c ∧ c.phase = .resident ∧ l.takeRun = none ∧ s.matQ = [] ∧ s.loads = [] ∧ s.bankQ = [] ∧
      s.waitQ = [] ∧ s.fab.sendQ = [] ∧ c.badGran = [] ∧ stairDef l.d1 = true) ∧
    (mmaTypes lMat = true ∧ mmaTypes lMatPort = true ∧ lMat.sp24 = false ∧ fld (lMat.kr 4) 20 12 = 0 ∧ fld (lMat.kr 4) 0 20 = 0 ∧ bBytes lMat.ty ≤ tSet.win ∧
      metaBytes lMat.ty false (decide (lMat.ty = .e2m1)) 32 = 0 ∧ fld (lMat.kr 6) 0 20 = 0x1000) ∧
    (lMat.ty = .s8 ∧ stairUnfit lMat.d1 .s8 = false ∧ bit tSet.qdst lMat.ref.line = false ∧ mmaFault (sOf lMat) lMat cMat 2 (.r 4) (.r 10) false = none ∧
      mmaFault (sOf lMat) lMat tSet 2 (.r 4) (.r 10) false = none ∧ cMat.active.kind = some { ty := lMat.ty, sp24 := lMat.sp24, mx := decide (lMat.ty = .e2m1), grp := 32 } ∧
      tSet.active.kind = none ∧ fld (lMat.kr 4) 20 2 = 0) ∧
    (lMatPort.okPortA (.q 2) = true ∧ lMatPort.okPortA (.q 3) = false ∧ mmaFault (sOf lMatPort) lMatPort cMat 2 (.q 2) (.r 11) true = none ∧ fld (lMatPort.kr 11) 0 7 = 0 ∧ fld (lMatPort.kr 11) 8 8 = 7 ∧
      descElem (lMatPort.port 2).desc (lMatPort.port 2).pos = .at_ 0x40 ∧ descSpace (lMatPort.port 2).desc = 1 ∧ descTag (lMatPort.port 2).desc = 0 ∧ 0x40 < cMat.win) :=
  ⟨by decide +kernel, by decide +kernel, by decide +kernel, by decide +kernel⟩
/-- A type with scales loads its metadata too. -/
theorem wit_PlanesAndIssue_scales : ∃ ty : Nat, let l := tMat ty kMat
    mmaTypes l = true ∧ l.sp24 = false ∧ l.ty = .e2m1 ∧ bBytes l.ty ≤ tSet.win ∧ metaBytes l.ty false true 32 ≠ 0 ∧ fld (l.kr 6) 20 12 = 0 ∧
    fld (l.kr 6) 0 20 % 16 = 0 ∧ fld (l.kr 6) 0 20 + metaBytes l.ty false true 32 ≤ tSet.win := ⟨14, by decide +kernel⟩

/-- An MMA in flight: two rows of depth 2, -1 × 3 + 4 × 2 in row 0. -/
def tRun : MmaRun :=
  { id := 1, set := tSet.ref, core := 0, issuer := lMat.ref, members := [0], tile := 2, rows := 2, depth := 2, ty := .s8, isat := false, d0 := 0, d1 := 0x20
    a := [[0xFF, 4], [0, 0x80]], scales := [], plane := tPlane }
theorem wit_IntegerProductsReachTheTile : (let s := { sOf lMat with sets := [cMat], runs := [tRun] }
      s.runs = [tRun] ∧ s.matQ = [] ∧ s.sets = [cMat] ∧ cMat.ref = tRun.set ∧ cMat.phase = .resident ∧ (∀ l ∈ s.lines, l.status ≠ .ended)) ∧
    tRun.ty = .s8 ∧ tRun.isat = false ∧ tRun.tile < 4 ∧ tRun.rows ≤ 128 ∧ (∀ k, tRun.plane.kind = some k → k.sp24 = false) ∧ (∀ t : Fin 4, tabWf 0 0 cMat.tiles[t] = true) := by
  refine ⟨by decide +kernel, rfl, rfl, by decide, by decide, fun k h => ?_, by decide +kernel⟩
  simp only [tRun, tPlane, Option.some.injEq] at h
  exact h ▸ rfl
theorem test_mma_sum : (match exec (.mmaComplete tSet.ref) { sOf lMat with sets := [cMat], runs := [tRun] } with
    | .next t => t.sets.map fun c => ((c.tile 2).at_ 0 0, (c.tile 2).at_ 1 0, (c.tile 2).at_ 0 5)
    | _ => []) = [(5, 0xFFFFFF09, 77)] := by decide +kernel

/-- Die 0's shared TLB maps address 0x4000_0000 of partition 0 to device address 0x80_0000_0000. -/
def tEntW : TlbEnt := { core := none, die := 0, part := 0, peer := false, level := 2, vpn := 1, entry := 0x8000000017, expiry := 9000, lines := [] }
def sDr (k : DrainKind) : State := { sOf lMat with drainQ := [tDrain k], tlb := [tEntW] }
def kMdr : DrainKind := .mdrain 2 0x55 0 (0x20004 + 0x800000) 0x2000 [300] true
/-- Row scales from 0x100 and column scales from 0x200 of the window. -/
def kMdrS : DrainKind := .mdrain 2 0x40 0x00200010 0x800068 0 [0x40400000] true
def tDescF (m : Nat) : Vector Word 4 := tDesc.set 0 (BitVec.ofNat 32 (0x200 + m * 0x100000))
def kMas (m : Nat) (read : Bool) : DrainKind := .mmas 0x40000000 (tDescF m) .f32 0 0x20 (if read then [0, 0, 0, 0x40] else []) read
theorem wit_DrainQueueActs : (∀ k ∈ [kMdr, kMdrS, kMas 0 false, kMas 1 false, kMas 0 true], let s := sDr k
      s.drainQ = [tDrain k] ∧ s.sets = [tSet] ∧ tSet.ref = setOf (tDrain k).issuer ∧ tSet.phase = .resident ∧ (tDrain k).state.isStopped = false ∧
      s.priorDone (tDrain k).issuer (tDrain k).id = true ∧ s.bankQ = [] ∧ s.waitQ = [] ∧ (∀ l ∈ s.lines, l.status ≠ .ended) ∧ (tDrain k).n = 0 ∧
      s.badDev = [] ∧ tSet.badGran = []) ∧
    (outType (fld (0x20004 + 0x800000 : Word) 0 5) = some .s8 ∧ fld (0x20004 + 0x800000 : Word) 16 2 = 2 ∧ outType (fld (0x800068 : Word) 0 5) = some .f32 ∧
      bit (0x800068 : Word) 5 = true ∧ bit (0x800068 : Word) 6 = true ∧ ∀ g, tSet.isMark g = false) ∧
    (fld (tDescF 0)[0] 20 2 = 0 ∧ fld (tDescF 1)[0] 20 2 = 1 ∧ (let gs := rangeGrans [(fld (tDescF 1)[0] 0 20, (fld (tDescF 1)[1] 0 16 + 1) * (matBits .f32 / 8))]
      tSet.tileFull gs = false ∧ (gs.foldl CSet.setFull tSet).tileFull gs = true)) ∧
    (match (sDr (kMas 0 true)).wRange 0 0 0x40000000 ((sDr (kMas 0 true)).engineUser lMat.ref)
        (mmasPages 0x40000000 (fld tDesc[2] 0 24 * 256) ((fld tDesc[1] 0 16 + 1) * (matBits .f32 / 8)) (fld tDesc[1] 16 16 + 1)) none with
      | .ok pa => some pa | _ => none) = some 0x8000000000 ∧
    (match { sDr (kMas 0 true) with tlb := [] }.wRange 0 0 0x40000000 ((sDr (kMas 0 true)).engineUser lMat.ref)
        (mmasPages 0x40000000 (fld tDesc[2] 0 24 * 256) ((fld tDesc[1] 0 16 + 1) * (matBits .f32 / 8)) (fld tDesc[1] 16 16 + 1)) none with
      | .miss va row base => some (va, row, base) | _ => none) = some (0x40000000, 0, none) ∧ tSet.marks = [] ∧ (tDrain (kMas 0 true)).base = none ∧
    (tDrain (kMas 0 true)).flags = 0 :=
  ⟨by decide +kernel, ⟨by decide +kernel, by decide +kernel, by decide +kernel, by decide +kernel, by decide +kernel, fun _ => rfl⟩, by decide +kernel, by decide +kernel, by decide +kernel, rfl, rfl, rfl⟩
/-- 3 with a row scale of 2 and a column scale of 0.5, to FP32. -/
theorem test_mdrain_scales : (match exec (.drainOperation 0) { sDr kMdrS with sets := [(tSet.write 0x100 [0, 0, 0, 0x40]).write 0x200 [0, 0, 0, 0x3F]] } with
    | .next t => (t.sets.map fun c => (c.read 0x40 4, c.isFull 4), t.drainQ)
    | _ => ([], [])) = ([(0x40400000, true)], []) := by decide +kernel
theorem test_mmas_row : (match exec (.mmasOperation 0) { sDr (kMas 0 true) with dev := writeBytes [] (canon 0x8000000000) [0, 0, 0x40, 0x40] } with
    | .next t => (t.sets.map fun c => (c.read 0x300 4, c.isFull 0x30), t.drainQ)
    | _ => ([], [])) = ([(0x40C00000, true)], []) := by decide +kernel

abbrev lBlk : Line := { tLine 32 8 with threads := (List.range 32).map fun j => { Thread.launch with x := (Vector.replicate 32 0).set 1 (if j = 0 then 0x3F800000 else 0) } }
theorem wit_BlockInstructionsWriteTheirResults : Issues (sOf lBlk) lBlk ∧ lBlk.ty = .f32 ∧ lBlk.width = 32 ∧ lBlk.bv = false ∧ lBlk.tri = 0 ∧ lBlk.okX false 3 = true ∧
    lBlk.okX false 1 = true ∧ readyRegs lBlk [1, 3] [] ∧ lBlk.takeRun = none ∧ lBlk.threads.length = 32 ∧
    (let xs := (List.range 32).map fun j => if lBlk.isActive j && lBlk.guard j then (lBlk.x j 1).toNat else 0
     quietFlags lBlk (fun j => ((had32 lBlk.ftz .div32 xs |>.getD j (0, 0)) : Nat × Flags).2)) := by decide +kernel
theorem wit_BlockInstructionsWriteTheirResults_mx : quietFlags lBlk (fun j =>
    let q := mxQuantise ((List.range 32).map lBlk.rmOf)
      (((List.range 32).map fun j => if lBlk.isActive j && lBlk.guard j then (lBlk.x j 1).toNat else 0).map fun x => Fmt.f32.value (ftzIn .f32 lBlk.ftz x))
    (q.2.1.getD j (0, 0)).2 ||| q.2.2) := by decide +kernel

/-! ### The memory system's steps -/

def sFly (a : Access) : State := { sTlb lOne with flight := [a] }
theorem wit_SlicesPerformAccesses : (∀ a ∈ [tAcc .sent .store, { tAcc .sent .store with rel := some .dev }, { tAcc .sent .load with rel := none }, tAcc .sent (.atomic .add .s32),
        tAcc .sent (.atomic .cas .s32)], let s := sFly a
      s.line lOne.ref = some lOne ∧ s.flight = [a] ∧ a.issuer = .line lOne.ref 0 ∧ a.phase = .sent ∧ a.staged = false ∧ a.place = .dev 0x100001000 ∧ s.badDev = [] ∧
      a.acq = false ∧ a.port = none ∧ a.late = [] ∧ s.fab.sendQ = [] ∧ s.fab.waits = [] ∧ 0 < (s.part a.part).lease) ∧
    (let a := { tAcc .sent (.atomic .add .s32) with acq := true }
     (sFly a).flight = [a] ∧ a.acq = true ∧ 0 < ((sFly a).part a.part).lease) ∧
    (let a := { tAcc .sent .store with rel := some .dev }
     (sFly a).fenceOk lOne .dev a.id = true ∧ { sFly a with l2 := [{ line := lineOf 0x100002000, lease := 9000, done := 8000, tlease := 0 }], lines := [{ lOne with hd := 8000 }] }.fenceOk
       { lOne with hd := 8000 } .dev a.id = false) ∧
    atomNew .cas .s32 5 0x11223344 0 = none ∧ atomNew .add .s32 5 0x11223344 0 = some 0x11223349 := by decide +kernel
theorem test_slice_store : (match exec (.slicePerform 1) (sFly (tAcc .sent .store)) with
    | .next t => (readBytes t.dev 0x100001000 4, t.flight.map Access.phase)
    | _ => ([], [])) = ([0x44, 0x33, 0x22, 0x11], [.performed 5000]) := by decide +kernel

theorem wit_AccessesReturn : (∀ a ∈ [tAcc (.performed 5600) .store, tAcc (.performed 0) .load, { tAcc (.unconfirmed 3) .store with check := [lOne] }], let s := sFly a
      s.line lOne.ref = some lOne ∧ s.flight = [a] ∧ a.issuer = .line lOne.ref 0 ∧ lOne.status ≠ .ended ∧ (∀ m ∈ s.lines, m.status ≠ .ended) ∧
      (∀ x ∈ s.sets, x.phase ≠ .ended) ∧ s.walks = [] ∧ s.bankQ = [] ∧ s.waitQ = []) ∧
    (let a := tAcc (.performed 5600) .store
     a.dst = none ∧ a.failed = none ∧ a.place = .dev 0x100001000 ∧ (sFly a).tabDone a.late = true) ∧
    (let a := tAcc (.performed 0) .load
     let l := { lOne with pend := [(0, 4)] }
     { sFly a with lines := [l] }.line l.ref = some l ∧ a.dst = some (4 : Fin 32).val ∧ (4 : Fin 32) ≠ 0 ∧ a.acq = false ∧ a.failed = none ∧ a.size ∈ [1, 2, 4] ∧
     (0, (4 : Fin 32).val) ∈ l.pend ∧ 0 < l.threads.length) ∧
    (let a := { tAcc (.unconfirmed 3) .store with check := [lOne] }
     (sFly a).translate (some lOne.core) (coreDie lOne.core) lOne.part false a.va true (!lOne.pl) = .hit (.dev 0x100001000) [] ∧
     ((sFly a).part lOne.part).regionRefuses 0x100001000 1 lOne.gtag (some (match (sFly a).grid a.grid with | some g => fld (g.pkt.getD 0 0) 8 2 | none => 0)) = false ∧
     { sFly a with tlb := [{ tEnt with entry := 0x100000013 }] }.translate (some lOne.core) (coreDie lOne.core) lOne.part false a.va true (!lOne.pl) = .fault 0x08) := by
  decide +kernel
theorem test_load_sign : (match exec (.loadReturn 1) { sFly { tAcc (.performed 0) .load with size := 1, sx := true, val := 0x80 } with lines := [{ lOne with pend := [(0, 4)] }] } with
    | .next t => t.lines.map fun m => (m.x 0 4, m.pend)
    | _ => []) = [(0xFFFFFF80, [])] := by decide +kernel

/-- Partition 0's tables: the root at 0x1_0000_0000; address 0x4000_1000 maps by a leaf at level 2. -/
def tTables (e2 : Nat) : Memory :=
  writeBytes (writeBytes (writeBytes [] (canon 0x100000000) (bytesOf 0x100001001 8)) (canon 0x100001000) (bytesOf 0x100002001 8)) (canon 0x100002008) (bytesOf e2 8)
def tWalk : Walk := { id := 3, die := 0, core := some 0, part := 0, peer := false, va := 0x40001000, write := true, user := true, fetch := false }
def sWalk (root : Bool) (e2 : Nat) : State :=
  { sOf lOne with walks := [tWalk], dev := tTables e2, parts := tParts.set 0 { tParts[0] with grlo := if root then 1 else 0, grhi := 1 } }
theorem wit_TranslationAndLeases : (let e : L1Line := { core := 0, line := 7, bytes := [], expiry := 5000 }
      let s := { sOf lOne with l1 := [e], l2 := [{ line := 7, lease := 9000, done := 0, tlease := 9500 }], tlb := [tEnt, { tEnt with expiry := 10 }], lines := [{ lOne with waited := 1024 }] }
      s.l1 = [e] ∧ e.expiry ≤ s.time ∧ s.time < 5001 ∧ 7 * 128 < 0x6000000000 ∧ lineOf 896 = 7 ∧ s.tlb[0]? = some tEnt ∧ s.time < tEnt.expiry ∧ lOne.waited < 1024) ∧
    (∀ r e2 : Nat, r = 0 ∨ r = 1 → (sWalk (r = 1) e2).walks = [tWalk] ∧ tWalk.core = some 0 ∧ (sWalk (r = 1) e2).tlb = [] ∧ (sWalk (r = 1) e2).faultTab = [] ∧
      (sWalk (r = 1) e2).badDev = []) ∧
    ((sWalk true 0).part 0).lease < 2 ^ 20 ∧ (sWalk false 0).walkRoot tWalk = none ∧
    (let s := sWalk true 0x8000000017
     s.walkRoot tWalk = some 0x100000000 ∧ readLe s.dev (canon 0x100000000) 8 = 0x100001001 ∧ readLe s.dev (canon 0x100001000) 8 = 0x100002001 ∧
     readLe s.dev (canon 0x100002008) 8 = 0x8000000017 ∧ s.malformed 0 4 0x100001001 = false ∧ s.malformed 0 3 0x100002001 = false ∧ s.malformed 0 2 0x8000000017 = false ∧
     s.walkCheck tWalk { core := none, die := 0, part := 0, peer := false, level := 2, vpn := 1, entry := 0x8000000017, expiry := 6024, lines := [] } = none) ∧
    (let s := { sWalk true 0 with dev := [] }
     (readLe s.dev (canon 0x100000000) 8).testBit 0 = false) ∧
    (let s := { sOf lOne with tlb := [{ tEnt with vpn := 0, level := 2, entry := 0x1F }] }
     s.codeVa lOne % 4 = 0 ∧ (let l := { lOne with pc := 0x42 }; ((sOf l).codeVa l) % 4 ≠ 0 ∧ (sOf l).line l.ref = some l ∧ l.pc ≠ l.crv) ∧
     s.line lOne.ref = some lOne ∧ lOne.status = .ready ∧ (lOne.pc ≠ lOne.crv ∨ lOne.depth = 0) ∧ s.badDev = [] ∧ s.unconfirmed lOne.ref = false ∧
     s.translate (some lOne.core) (coreDie lOne.core) lOne.part false (s.codeVa lOne) false (!lOne.pl) true = .hit (.dev (canon (s.codeVa lOne))) [] ∧
     (sOf lOne).translate (some lOne.core) (coreDie lOne.core) lOne.part false ((sOf lOne).codeVa lOne) false (!lOne.pl) true = .miss ∧
     { s with tlb := [{ tEnt with vpn := 0, level := 2, entry := 0x17 }] }.translate (some lOne.core) (coreDie lOne.core) lOne.part false (s.codeVa lOne) false (!lOne.pl) true = .fault 0x08) := by
  refine ⟨by decide +kernel, fun r e2 h => ⟨rfl, rfl, rfl, rfl, rfl⟩, by decide +kernel, by decide +kernel, by decide +kernel, by decide +kernel, by decide +kernel⟩
theorem test_walk_fills : (match exec (.walk 3) (sWalk true 0x8000000017) with
    | .next t => (t.tlb.head?.map fun e => (e.core, e.vpn, e.level, e.expiry), t.walks)
    | _ => (none, [])) = (some (some 0, 1, 2, 6024), []) := by decide +kernel
theorem test_walk_absent : (match exec (.walk 3) (sWalk true 0) with
    | .next t => t.faultTab.map fun f => (f.cls, f.page, f.absent)
    | _ => []) = [(0x07, 0x4000, true)] := by decide +kernel

/-! ### The fabric -/

/-- Every slot of 1,000 ticks, 100 of them guard, faces port 8 of package 3 from port 0, and nothing from port 1. -/
def tSlot : Slot := { len := 1000, guard := 100, dark := 0xFFFE, ports := [0x8003] }
def tFig : Figure := { slots := [tSlot], epoch := 0, hold := 0 }
def tPartsF (p : Partition) : Vector Partition 8 := State.reset.parts.set 0 p
def pFig : Partition := { Partition.reset true with figure := some tFig }
def sPort (time : Nat) (p : Partition) (q : FPort) : State :=
  { sOf lOne with time := time, parts := tPartsF p, fab := { Fabric.reset with ports := Fabric.reset.ports.set 0 q }
                  pkg := { Package.reset with stage := 7, didv := true, tblock := true } }
/-- An acknowledgement that leaves by port 0 for die 1 of package 3. -/
def tAckP : Packet :=
  { ty := 7, dpkg := 3, ddie := 1, spkg := 0, sdie := 0, rly := false, enc := false, cls := 0, dlen := 0, seq := 5, addr := 0, aux := 0, mask := 0, ext := []
    data := bytesOf 4000 8 }
def tBack : Arrival := { die := 0, port := some 0, pkt := tAckP, part := 0, heldAt := none }
theorem wit_FigurePortsInTheirSlots :
    (∀ time ∈ [5000, 5099, 5100, 5999], ∀ q ∈ [FPort.reset, { FPort.reset with slotAt := 5000 }, { FPort.reset with slotAt := 5000, locked := true }],
      let s := sPort time pFig q
      s.portPart 0 = some 0 ∧ (s.part 0).figure = some tFig ∧ slotAt tFig s.time = some (5000, tSlot) ∧ slotFace tSlot 0 = some (3, 8) ∧ (s.port 0).packet = false ∧
      (s.part 0).pport.testBit 0 = true ∧ (s.port 0).slotAt = q.slotAt ∧ (s.part 0).dark = false ∧ 7 ≤ s.pkg.stage ∧ s.mayEmit 0 = true ∧ (s.port 0).nulls < 9) ∧
    FPort.reset.slotAt < 5000 ∧
    (let k : Link := { fseq := 9, rack := 4, rrq := false, replaying := none, replay := [] }
     let q := { FPort.reset with face := some (2, 1), links := [(some (3, 8), k)] }
     q.face ≠ some (3, 8) ∧ q.links.find? (fun y => decide (y.1 = some (3, 8))) = some (some (3, 8), k)) ∧
    (let q := { FPort.reset with slotAt := 5000, locked := true, replaying := some 7, replay := [(7, [1, 2], false)], fseq := 8 }
     let s := sPort 5100 pFig q
     s.portPart 0 = some 0 ∧ s.inTurn 0 0 tSlot (3, 1) = true ∧ (s.port 0).replaying = some 7 ∧ s.allowHeld 0 = false ∧
     (s.port 0).replay.find? (fun x => decide (x.1 = 7)) = some (7, [1, 2], false)) ∧
    (let p := { pFig with held := true }
     let s0 := sPort 5100 p { FPort.reset with slotAt := 5000, locked := true }
     let s := { s0 with fab := { s0.fab with back := [tBack] } }
     s.inTurn 0 0 tSlot (3, 1) = true ∧ (s.port 0).replaying = none ∧ (s.port 0).kept < 1024 ∧ s.allowHeld 0 = true ∧ s.txRest 0 (3, 1) = none ∧ s.fab.relay = [] ∧ s.fab.back = [tBack] ∧
     tBack.part = 0 ∧ tBack.port = some 0 ∧ s.carries 0 (3, 8 / 8) tBack.pkt.dpkg tBack.pkt.ddie = some false ∧ tBack.pkt.ty = 7 ∧
     s.sendKey 0 tBack.pkt.dpkg tBack.pkt.ddie false = none) := by decide +kernel
/-- A hold with the rest of a split data packet and a replay of a data flit to come. -/
theorem wit_FigurePortsInTheirSlots_held :
    let q := { FPort.reset with slotAt := 5000, locked := true, replaying := some 7, replay := [(7, [1, 2], true)], fseq := 8 }
    let s0 := sPort 5100 { pFig with held := true } q
    let s := { s0 with fab := { s0.fab with tx := [{ part := 0, dest := (3, 1), data := true, src := none, id := 1, whole := none, bytes := [1] }] } }
    s.inTurn 0 0 tSlot (3, 1) = true ∧ s.allowHeld 0 = true ∧ (s.port 0).kept < 1024 ∧ s.fab.back = [] ∧ s.fab.relay = [] ∧
    (s.txRest 0 (3, 1)).map TxRest.data = some true ∧ (s.port 0).replaysData 7 = true := by decide +kernel
/-- A full replay buffer: 1,024 flits kept. -/
theorem wit_FigurePortsInTheirSlots_full : 1024 ≤ ({ FPort.reset with slotAt := 5000, locked := true, replay := List.replicate 1024 (0, [], true) } : FPort).kept := by
  decide +kernel
theorem test_slot_start : (match exec (.slotStart 0) (sPort 5000 pFig { FPort.reset with locked := true }) with
    | .next t => ((t.port 0).slotAt, (t.port 0).face, (t.port 0).locked)
    | _ => (0, none, true)) = (5000, some (3, 8), false) := by decide +kernel
theorem test_relock_failure : (match exec (.relockFailure 0) (sPort 5100 pFig { FPort.reset with slotAt := 5000 }) with
    | .next t => ((t.port 0).nulls, tget 0 t.pkg.counters (Counter.relockFail 0))
    | _ => (0, 0)) = (9, 1) := by decide +kernel

/-- The received bytes go through the error correction of a named standard, so which clause a flit falls under is open; every state
with a lit port meets the hypotheses. -/
theorem wit_FlitsAndFabricChanges : (let s := sPort 5100 pFig FPort.reset
      s.portPart 0 = some 0 ∧ (s.part 0).dark = false ∧ 7 ≤ s.pkg.stage ∧ s.pkg.didv = true ∧ (s.stream (s.streamKey 0 0)).rest = [] ∧
      (s.stream (s.streamKey 0 0)).later = [] ∧ s.pkg.free = false ∧ (∀ m < 0, s.portPacket m = true)) ∧
    (∀ c ∈ [{ tFig with epoch := 6000, hold := 2000 }, { tFig with epoch := 6000, hold := 500 }, { tFig with epoch := 5100 }],
      (((sPort 5100 { pFig with commit := some c } FPort.reset).part 0).commit = some c)) ∧
    (5100 : Nat) ≤ (sPort 5100 pFig FPort.reset).time ∧ (sPort 5100 pFig FPort.reset).time < 6000 ∧
    (let q := { FPort.reset with switching := true, asked := true }
     (sPort 5100 pFig q).portPart 0 = some 0 ∧ ((sPort 5100 pFig q).port 0).switching = true ∧ ((sPort 5100 pFig q).port 0).kept = 0 ∧
     (sPort 5100 pFig q).atRound 0 = false ∧ (sPort 5000 pFig q).atRound 0 = true ∧
     ((sPort 5000 pFig { q with replay := [(0, [], true)] }).port 0).kept ≠ 0) ∧
    (let b : Binding := { peer := 7, handle := 2, sendHandle := 1, pktHandle := 1, olds := [(1, none)] }
     ((sPort 5000 { pFig with binds := [b] } FPort.reset).part 0).binds = [b]) := by
  refine ⟨by decide +kernel, by decide +kernel, by decide +kernel, by decide +kernel, by decide +kernel, by decide +kernel⟩
/-- A packet sent and not acknowledged holds the key of packet-mode ports; that of figure-mode ports changes at the round boundary. -/
theorem test_key_switch : (let b : Binding := { peer := 7, handle := 2, sendHandle := 1, pktHandle := 1, olds := [(1, none)] }
    match exec (.keySwitch 0 7) (sPort 5000 { pFig with binds := [b] } FPort.reset) with
    | .next t => (t.part 0).binds.map fun x => (x.sendHandle, x.pktHandle)
    | _ => []) = [(2, 2)] := by decide +kernel
theorem test_table_epoch : (match exec (.tableEpoch 0) (sPort 6000 { pFig with commit := some { tFig with epoch := 6000 } } FPort.reset) with
    | .next t => ((t.part 0).figure.map Figure.epoch, (t.part 0).commit.isNone)
    | _ => (none, false)) = (some 6000, true) := by decide +kernel

/-- A packet from die 1 of package 3 for die 0, that partition 0's peer table maps to device address 0x1_0000_0000. -/
def tPkt (ty : Nat) : Packet :=
  { ty := ty, dpkg := 0, ddie := 0, spkg := 3, sdie := 1, rly := false, enc := false, cls := 0, dlen := 0, seq := 0, addr := 0, aux := 0, mask := 0xF0, ext := []
    data := (List.range 128).map (BitVec.ofNat 8) }
def tArr (p : Packet) : Arrival := { die := 0, port := none, pkt := p, part := 0, heldAt := none }
def sArr (a : Arrival) : State :=
  { sNet lOne with tlb := [{ tEnt with core := none, peer := true, vpn := 0 }], parts := tPartsF { Partition.reset true with prlo := 1 }, fab := { Fabric.reset with arrived := [a] } }
/-- An s32 add of 7. -/
def tAtomP : Packet := { tPkt 4 with aux := 0x20, addr := 8, ext := bytesOf 7 16 }
/-- A contribution of rank 1 of 2 to element 3, TYPE s32, under the default stair. -/
def tRedP : Packet := { tPkt 6 with mask := 8, addr := 12, ext := bytesOf 0 4 ++ bytesOf 0x20 4 ++ bytesOf 0x1001 4 ++ bytesOf 0 4 }
def tRedE : RedElem := { die := 0, part := 0, addr := 12, nrank := 2, ty := 0, d0 := 0, d1 := 0x20, got := [(0, 5)], from_ := [] }
theorem wit_PacketsArePerformed : (∀ p ∈ [tPkt 0, tPkt 1, tPkt 2, tAtomP, tRedP, tPkt 9, tPkt 14], let s := sArr (tArr p)
      s.fab.arrived = [tArr p] ∧ s.fab.sendQ = [] ∧ s.fab.back = [] ∧ tget 0 s.fab.rxSeq (tArr p).srcQ = p.seq ∧ tabWf 0 0 s.fab.rxSeq = true ∧
      tget 0 s.fab.wrote (tArr p).srcQ ≤ s.time ∧ s.time < tget 0 { s with fab := { s.fab with wrote := [((tArr p).srcQ, s.time + 1)] } }.fab.wrote (tArr p).srcQ ∧ s.fab.late = [] ∧ s.badDev = [] ∧
      (s.part 0).regionRefuses 0x100000000 4 0 none = false ∧ s.destLine (tArr p) true = .hit (.dev 0x100000000) [] ∧ s.destLine (tArr p) false = .hit (.dev 0x100000000) [] ∧
      s.tabRefs 0x100000000 = [] ∧ s.takesPart (tArr p) = true ∧ { s with pkg := { s.pkg with tblock := false } }.takesPart (tArr p) = false ∧ s.holdOver (tArr p) = false ∧ s.memWf ∧ p.data.length = 128 ∧ 0x100000000 % 128 = 0 ∧ s.sysRecs = [] ∧ (s.part 0).fren = false) ∧
    (tAtomP.spkg ≠ (sArr (tArr tAtomP)).pkg.domid ∧ tAtomP.aux % 64 = 0x20 ∧ tAtomP.addr % 4 = 0) ∧
    ((3 : Nat) < 32 ∧ tRedP.mask = 2 ^ 3 ∧ tRedP.addr = 4 * 3 ∧ tRedE.addr = 4 * 3 ∧ tRedE.nrank = 2 ∧ tRedE.ty = 0 ∧ tRedE.got.length = 1 ∧ (∀ g ∈ tRedE.got, g.1 = 0) ∧ tRedE.from_ = [] ∧
      leNat ((tRedP.ext.drop 8).take 4) = 1 + 1 * 2 ^ 12 ∧ leNat ((tRedP.ext.drop 12).take 4) = 0 ∧ tRedE.die = (tArr tRedP).die ∧ tRedE.part = (tArr tRedP).part) ∧
    (∀ t0 ∈ [0, 4999], let a := { tArr (tPkt 1) with heldAt := some t0 }
      (sArr a).fab.arrived = [a] ∧ a.heldAt = some t0 ∧ a.pkt.ty ≤ 4 ∧ ((sArr a).time < 4999 + (sArr a).holdFor a)) ∧
    (let a := { tArr (tPkt 1) with heldAt := some 0 }
     0 + { sArr a with time := 90000 }.holdFor a ≤ 90000) :=
  ⟨by decide +kernel, by decide +kernel, by decide +kernel, by decide +kernel, by decide +kernel⟩
theorem test_masked_write : (match exec (.maskedWrite 0) (sArr (tArr (tPkt 1))) with
    | .next t => (readBytes t.dev 0x100000000 9, t.fab.back.map fun r => (r.pkt.ty, r.pkt.dpkg, r.pkt.ddie))
    | _ => ([], [])) = ([0, 0, 0, 0, 4, 5, 6, 7, 0], [(7, 3, 1)]) := by decide +kernel
theorem test_reduction : (match exec (.reductionContribution 0) { sArr (tArr tRedP) with fab := { (sArr (tArr tRedP)).fab with reds := [tRedE] } } with
    | .next t => (readBytes t.dev 0x10000000C 4, t.fab.reds)
    | _ => ([], [])) = ([17, 13, 14, 15], []) := by decide +kernel

/-- A packet of the line that was sent to die 1 of package 3, its wait, and an answer to it. -/
def tSent : SendEnt :=
  { die := 0, pkg := 3, ddie := 1, cls := 0, item := .packet { tAckP with ty := 1, seq := 5 }, part := 0, held := none, issuer := some lOne.ref, id := 1, ino := 0
    sent := true, notBefore := 0 }
def tWaitP (k : AccKind) (dsts : List (Nat × Option Nat × Nat × Nat)) : PeerWait :=
  { id := 1, die := 0, pkg := 3, ddie := 1, cls := 0, seq := 5, issuer := lOne.ref, kind := k, dsts := dsts, sx := false, acq := false, rel := none, red := false
    va := 0x3008000000001000, pc := 0, word := 0, done := none }
def tAns (ty aux : Nat) : Arrival := tArr { tPkt ty with seq := 5, aux := aux, data := bytesOf 6000 8, ext := bytesOf 6001 8 }
def lAns : Line := { lOne with pend := [(0, 4)] }
def sAns (a : Arrival) (w : PeerWait) : State :=
  { sNet lAns with fab := { Fabric.reset with arrived := [a], sendQ := [tSent], waits := [w], rxSeq := [(a.srcQ, 5)] } }
theorem wit_AnswersSettleTheirAccess : (∀ a ∈ [tAns 7 0, tAns 5 0, tAns 3 0, tAns 8 1, tAns 8 4, tAns 8 2], ∀ w ∈ [tWaitP .store [], tWaitP .load [(0, some 4, 0, 4)]], let s := sAns a w
      s.fab.arrived = [a] ∧ s.fab.back = [] ∧ s.fab.sendQ = [tSent] ∧ tSent.sent = true ∧ s.fab.waits = [w] ∧ w.id = tSent.id ∧ w.issuer = lAns.ref ∧ s.line lAns.ref = some lAns ∧
      (∀ m ∈ s.lines, m.status ≠ .ended) ∧ (∀ x ∈ s.sets, x.phase ≠ .ended) ∧ w.red = false ∧ w.done = none ∧ s.takesPart a = true) ∧
    (∀ a ∈ [tAns 7 0, tAns 5 0, tAns 3 0, tAns 8 1, tAns 8 4, tAns 8 2], ∀ w ∈ [tWaitP .store [], tWaitP .load [(0, some 4, 0, 4)]],
      (tSent.die, tSent.pkg, tSent.ddie, tSent.cls) = (a.pkt.ddie, a.pkt.spkg, a.pkt.sdie, a.pkt.cls) ∧ a.pkt.seq = 5 ∧
      (w.die, w.pkg, w.ddie, w.cls, w.seq) = (tSent.die, tSent.pkg, tSent.ddie, tSent.cls, 5) ∧ tget 0 (sAns a w).fab.rxSeq a.srcQ = a.pkt.seq ∧ (sAns a w).holdOver a = false ∧ a.pkt.addr = 0) ∧
    ((0, (4 : Fin 32).val) ∈ lAns.pend ∧ (4 : Fin 32) ≠ 0) ∧
    (bitsAt (tAns 8 1).pkt.aux 0 4 = 1 ∧ bitsAt (tAns 8 4).pkt.aux 0 4 = 4 ∧ bitsAt (tAns 8 2).pkt.aux 0 4 = 2) ∧
    (0 < ({ tSent with notBefore := 4000 } : SendEnt).notBefore ∧ 4000 ≤ (sAns (tAns 7 0) (tWaitP .store [])).time ∧ (sAns (tAns 7 0) (tWaitP .store [])).time < 6000) ∧
    (let m := { tSent with item := .marker lOne.ref, id := 2 }
     (match tSent.item with | .packet p => decide (p.ty ≠ 3 ∧ p.addr = 0) | _ => false) = true ∧ m.id ≠ tSent.id ∧ (m.die, m.pkg, m.ddie, m.cls) = (tSent.die, tSent.pkg, tSent.ddie, tSent.cls)) :=
  ⟨by decide +kernel, by decide +kernel, by decide +kernel, by decide +kernel, by decide +kernel, by decide +kernel⟩
theorem test_ack_raises_hx : (match exec (.acknowledgement 0) (sAns (tAns 7 0) (tWaitP .store [])) with
    | .next t => (t.lines.map Line.hx, t.fab.sendQ, t.fab.waits)
    | _ => ([], [], [])) = ([6000], [], []) := by decide +kernel

/-! ### The scheduler -/

/-- A launch packet: two sets of two lines of eight threads, 8 x and 16 k registers, a 64-KiB window, pc 0x40, and the words given by index. -/
def tPk (ws : List (Nat × Word)) : Vector Word 32 :=
  Vector.ofFn fun i : Fin 32 => ((ws ++ [(0, 0x100001), (1, 0x1E7), (2, 1), (3, 0x40)]).lookup i.val).getD 0
/-- Dependence on the doubleword at 0x1000 (DEPOP 1, at least 5), START 4900, record at 0x2000. -/
def pkDep : Vector Word 32 := tPk [(1, 0x21E7), (6, 0x1000), (8, 5), (10, 4900), (12, 0x2000), (14, 0x2040), (16, 0x77), (20, 0xABC)]
def tQ : QueueRegs := { QueueRegs.reset with ctl := 0x3B4, qblo := 0x1000, head := 0, tail := 1 }
def pktBytes (p : Vector Word 32) : List Byte := (p.toList.map fun w => bytesOf w.toNat 4).flatten
def tPkg : Package := { Package.reset with power := true, stage := 8, ready := true, everReady := true, tblock := true, didv := true }
/-- The shared TLB maps every address below 1 GiB to device memory from 0x1_0000_0000 on, or to host memory. -/
def tShared (host : Bool) : TlbEnt :=
  { core := none, die := 0, part := 0, peer := false, level := 2, vpn := 0, entry := (if host then 0x40 else 0x100000000) + 0x17, expiry := 9000, lines := [] }
def tGrid (p : Vector Word 32) (st : GridState) : Grid :=
  { wordGrid 1 with pkt := p, state := st, count := 2, next := 0, ended := 0, queue := 3, depMet := false, tread := 4800, errc := 0 }
def sQueue (r : QueueRegs) (p : Vector Word 32) (gs : List Grid) (host : Bool) : State :=
  { State.reset with time := 5000, pkg := tPkg, queues := [(3, r)], hostMem := writeBytes [] 0x1000 (pktBytes p), grids := gs, tlb := [tShared host], nextId := 2 }
theorem wit_QueuesBecomeGrids : ((sQueue tQ pkDep [] false).queue 3 = tQ ∧ (sQueue tQ pkDep [] false).functionUp tQ.qpart = true ∧ (16 - tQ.head).toNat ≤ 2 ^ tQ.qsz ∧
      2 ^ tQ.qsz < (17 - tQ.head).toNat) ∧
    ((sQueue tQ pkDep [] false).mayRead 3 = true ∧ (sQueue tQ (tPk [(0, 0x100007)]) [] false).mayRead 3 = true ∧ tQ.qloc = false ∧ (sQueue tQ pkDep [] false).grids = [] ∧
      tabWf QueueRegs.reset 0 (sQueue tQ pkDep [] false).queues = true) ∧
    (∀ (s : State) (r : QueueRegs), ∃ p : Vector Word 32,
      ∀ i : Fin 32, p[i] = BitVec.ofNat 32 (readLe s.hostMem (fld r.qbhi 0 25 * 2 ^ 32 + r.qblo.toNat + 128 * (r.head.toNat % 2 ^ r.qsz) + 4 * i) 4)) ∧
    (let p : Vector Word 32 := Vector.ofFn fun i => BitVec.ofNat 32 (readLe (sQueue tQ pkDep [] false).hostMem (0x1000 + 4 * i) 4)
     pktErr p = 0 ∧ fld p[0] 0 4 = 1 ∧ fld p[1] 13 2 = 1 ∧ pktErr (tPk [(0, 0x100007)]) ≠ 0) ∧
    (∀ met p, let g := { tGrid p .waiting with depMet := met }
      (sQueue tQ p [g] false).grids = [g] ∧ g.queue = 3 ∧ g.state = .waiting ∧ tQ.sigPkt = none ∧ tQ.prev = none) ∧
    (pkRsvc pkDep = false ∧ pkRsvc (tPk [(10, 6000)]) = false) ∧
    (pkDouble pkDep 10 ≤ 5000 ∧ 5000 < pkDouble (tPk [(10, 6000)]) 10 ∧ pkDouble pkDep 6 < 2 ^ 57) ∧
    (let s := sQueue tQ pkDep [tGrid pkDep .waiting] false
     s.translate none 0 tQ.qpart false (pkDouble pkDep 6) false false = .hit (.dev 0x100001000) [] ∧ s.badDev = [] ∧ ¬ pkDouble pkDep 8 ≤ readLe s.dev 0x100001000 8 ∧
     pkDouble pkDep 8 ≤ readLe { s with dev := writeBytes [] 0x100001000 [9] }.dev 0x100001000 8) ∧
    (let s := sQueue tQ pkDep [tGrid pkDep .waiting] true
     s.translate none 0 tQ.qpart false (pkDouble pkDep 6) false false = .hit (.host 0x1000) [] ∧ tQ.pollAt ≤ s.time ∧ s.time < ({ tQ with pollAt := 6000 } : QueueRegs).pollAt ∧
     pkDouble pkDep 8 ≤ readLe s.hostMem 0x1000 8 ∧ ¬ pkDouble pkDep 8 ≤ readLe { s with hostMem := [] }.hostMem 0x1000 8) :=
  ⟨by decide +kernel, by decide +kernel, fun s r => ⟨Vector.ofFn fun i => BitVec.ofNat 32 (readLe s.hostMem (fld r.qbhi 0 25 * 2 ^ 32 + r.qblo.toNat + 128 * (r.head.toNat % 2 ^ r.qsz) + 4 * i) 4), fun i => by simp⟩,
   by decide +kernel, fun _ _ => ⟨rfl, rfl, rfl, rfl, rfl⟩, by decide +kernel, by decide +kernel, by decide +kernel, by decide +kernel⟩
theorem test_packet_read : (match exec (.packetRead 3) (sQueue tQ pkDep [] false) with
    | .next t => (t.grids.map fun g => (g.count, g.depMet), (t.queue 3).head)
    | _ => ([], 0)) = ([(2, false)], 1) := by decide +kernel
theorem test_tail_beyond : (match exec (.tailWrite 3 17) (sQueue tQ pkDep [] false) with
    | .next t => ((t.queue 3).err, fld (t.queue 3).ctl 20 4, (t.queue 3).tail)
    | _ => (false, 0, 0)) = (true, 8, 1) := by decide +kernel

def pkPlain : Vector Word 32 := tPk [(12, 0x2000), (14, 0x2040), (16, 0x77), (20, 0xABC)]
/-- The set that placement puts on core 0, in a phase of its life; partition 0 has a context area at 0x1_0000_0000. -/
def cPl (ph : Phase) : CSet := { CSet.launch { grid := 1, set := 0 } 0 0x10000 2 with phase := ph }
def sSet (g : Grid) (c : CSet) (ls : List Line) : State :=
  { State.reset with time := 5000, pkg := tPkg, grids := [g], sets := [c], lines := ls, nextId := 2
                     parts := State.reset.parts.set 0 { Partition.reset true with cxbase := 0x10000, cxsize := 0x100 } }
def tImage : Image := { set := cPl .stopping, lines := [], copies := [], drains := [], addr := 0x100000000, size := 0x90000 }
theorem wit_SetsComeAndGo : (let g := tGrid pkPlain .dispatchable
      let s := sQueue tQ pkPlain [g] false
      s.grids = [g] ∧ g.state = .dispatchable ∧ g.plan = [] ∧ s.sets = [] ∧ s.lines = [] ∧ s.pkg.limited = false ∧ g.images = [] ∧ g.next < g.count ∧ pkRsvc g.pkt = false ∧ pktErr g.pkt = 0 ∧
      pkType g.pkt = 1 ∧ pkHall g.pkt = 1 ∧ s.lastPlace[0] = 0 ∧ (s.part g.part).eligible (pkPers g.pkt) 0 = true ∧ (∀ c < 0, (s.part g.part).eligible (pkPers g.pkt) c = false)) ∧
    (∀ ph ∈ [Phase.placed 5000, .placed 5001, .stopping, .restoring 5000, .restoring 5001], let g := tGrid pkPlain .dispatchable
      (sSet g (cPl ph) []).sets = [cPl ph] ∧ (cPl ph).ref.grid = g.id ∧ (cPl ph).hall = (cPl ph).ref.set ∧ (cPl ph).hsize = 1 ∧ (cPl ph).phase = ph) ∧
    (let g := tGrid pkPlain .dispatchable
     let s := sSet g (cPl .stopping) []
     s.waitQ = [] ∧ s.atRest (cPl .stopping) = true ∧ g.images = [] ∧ g.part = (cPl .stopping).part ∧ (s.imageOf (cPl .stopping) 0).size ≤ (s.imageArea 0).2 ∧ s.bankQ = [] ∧ (∀ m ∈ s.lines, m.grants = []) ∧
     { s with flight := [tAcc .sent .store] }.atRest (cPl .stopping) = false) ∧
    (let g := { tGrid pkPlain .dispatchable with images := [tImage] }
     g.images = [tImage] ∧ tImage.set.ref = (cPl .stopping).ref ∧ tImage.copies = [] ∧ tImage.drains = [] ∧
     (sSet g (cPl (.restoring 5000)) []).badSetWords tImage.addr = false ∧ { tImage with lines := [l32.saved] }.lines ≠ [] ∧ { tImage with lines := [l32.saved] }.set.ref = (cPl .stopping).ref) :=
  ⟨by decide +kernel, by decide +kernel, by decide +kernel, by decide +kernel⟩
theorem test_placement : (match exec (.placement 0) (sQueue tQ pkPlain [tGrid pkPlain .dispatchable] false) with
    | .next t => (t.sets.map fun c => (c.core, c.phase), t.lines.map fun l => (l.lane, l.pc, l.k.getD 4 0))
    | _ => ([], [])) = ([(0, .placed 5040)], [(0, 0x40, 0xABC), (1, 0x40, 0xABC)]) := by decide +kernel

def gDone (st : GridState) : Grid := { tGrid pkPlain st with next := 2, ended := 2, killed := 3, lastG := 4900 }
theorem wit_GridsComplete : (∀ g ∈ [gDone .dispatchable, gDone .refused, gDone (.recorded 5000), gDone (.recorded 5001), { gDone .dispatchable with lastG := 5001 }],
      let s := sQueue tQ pkPlain [g] false
      s.grids = [g] ∧ s.sets = [] ∧ s.lines = [] ∧ pkDouble g.pkt 12 < 2 ^ 57 ∧ s.translate none 0 g.part false (pkDouble g.pkt 12) true false = .hit (.dev 0x100002000) [] ∧
      (∀ ca ∈ [0x100002000, 0x100002040], (s.part g.part).regionRefuses ca 6 0 none = false ∧ s.tabRefs ca = []) ∧
      pkDouble g.pkt 14 < 2 ^ 57 ∧ s.translate none 0 g.part false (pkDouble g.pkt 14) true false = .hit (.dev 0x100002040) [] ∧ pkDouble g.pkt 14 ≠ 0 ∧ g.errc < 256 ∧
      g.count ≤ g.next ∧ g.count ≤ g.ended ∧ s.gridIdle g = true) ∧
    (gDone .dispatchable).lastG ≤ 5000 ∧
    (let r := { tQ with sigPkt := some pkPlain, sigDep := true }
     let s := sQueue r pkPlain [gDone .dispatchable] false
     (∀ ca ∈ [0x100002000, 0x100002040], (s.part r.qpart).regionRefuses ca 6 0 none = false ∧ s.tabRefs ca = []) ∧ s.queue 3 = r ∧ tabWf QueueRegs.reset 0 s.queues = true ∧ r.prev = none ∧ pkDouble pkPlain 10 ≤ s.time ∧
     s.translate none 0 r.qpart false (pkDouble pkPlain 14) true false = .hit (.dev 0x100002040) [] ∧
     s.translate none 0 r.qpart false (pkDouble pkPlain 12) true false = .hit (.dev 0x100002000) []) := ⟨by decide +kernel, by decide, by decide +kernel⟩
theorem test_completion_record : (match exec (.completionRecord 1) (sQueue tQ pkPlain [gDone .dispatchable] false) with
    | .next t => (readBytes t.dev 0x100002000 16, t.grids.map Grid.state)
    | _ => ([], [])) = ([1, 0, 0, 0, 1, 0, 0, 0, 3, 0, 0, 0, 3, 0, 0, 0], [.recorded 5000]) := by decide +kernel

/-! ### The host, its registers and commands -/

def sHost (cmd : Nat) (args : Vector Word 4) (l : Line) : State :=
  { sSup l8 with lines := [l], pkg := tPkg, parts := tParts.set 0 { tParts[0] with cmda := args, cmdop := cmd, cmdBusy := true, cxbase := 0x10000, cxsize := 0x100 } }
theorem wit_HostAccessesAndCommands : (let s := sHost 0 (Vector.replicate 4 0) tTrapped
      s.linkUp = true ∧ s.tabRefs (canon 0x100000000) = [] ∧ isDev 0x100000000 = true ∧ 0x100000000 % 128 + 4 ≤ 128 ∧ s.ownerOf (canon 0x100000000) = some 0 ∧
      (s.part 0).regionRefuses (canon 0x100000000) 5 0 none = false ∧ s.badDev = [] ∧ s.postedG ≤ s.time ∧ s.tabDone s.postedT = true ∧ HostPlace.numVfs ≠ .sideband ∧ s.time < { s with postedG := 6000 }.postedG) ∧
    (∀ cmd ∈ [2, 3, 4], let s := sHost cmd #v[8, 0x18, 0x55, 0] tTrapped
      s.functionUp 0 = true ∧ (s.part 0).cmdBusy = true ∧ (s.part 0).cmdop = cmd ∧ (s.handleCore 0 8).isSome = true ∧ s.lineAt 0 8 = some tTrapped ∧ tTrapped.status = .trapped ∧
      s.line tTrapped.ref = some tTrapped) ∧
    ((tTrapped.imageWord 0 0x18).isSome = true ∧ (∀ n < 16, (tTrapped.port n).held = none) ∧ (tTrapped.imageWrite 0 2 0x18 0x55).isSome = true) ∧
    (let l := { tTrapped with status := .ready }
     let s := sHost 4 #v[8, 7, 3, 0] l
     s.lineAt 0 8 = some l ∧ l.status ≠ .trapped ∧ (3 : Word).toNat < 4 ∧ s.functionUp 0 = true ∧ (s.part 0).cmdBusy = true) ∧
    (tTrapped.recStage = .done ∧ tTrapped.record.seq = fld (7 : Word) 0 16 ∧ (∀ n < 16, (tTrapped.port n).bound = false)) ∧
    (let s := sHost 9 #v[0, 0, 0, 0] tTrapped
     (s.part 0).cmdop = 9 ∧ fld (0 : Word) 4 6 = 0 ∧ s.setAt 0 0 = some tSet ∧ tSet.phase ≠ .stopping ∧ s.imageRoom tSet = true) ∧
    (let o := tCopy (.stopped 7 0)
     let s := { sHost 10 #v[0x218, 0, 0, 0] tTrapped with copyQ := [o] }
     s.handleCore 0 0x218 = some 0 ∧ fld (0x218 : Word) 0 3 = 0 ∧ fld (0x218 : Word) 3 7 = 64 + 3 ∧ s.copyHead 0 3 = some o ∧ o.part = 0 ∧ o.state = .stopped 7 0) ∧
    (let s := { sHost 0 (Vector.replicate 4 0) tTrapped with parts := tParts }
     s.functionUp 0 = true ∧ (s.part 0).cmdBusy = false ∧ (15 : Fin 16).val ∉ [2, 3, 4, 9, 10]) :=
  ⟨by decide +kernel, by decide +kernel, by decide +kernel, by decide +kernel, by decide +kernel, by decide +kernel, by decide +kernel, by decide +kernel⟩
theorem test_host_lresume : (match exec (.hostLresume 0) (sHost 4 #v[8, 7, 0, 0] tTrapped) with
    | .next t => (t.lines.map Line.status, (t.part 0).cmdres)
    | _ => ([], 0)) = ([.ready], 1) := by decide +kernel

def sReg (p : Partition) (n : Nat) (h : n < 8) : State := { State.reset with time := 5000, pkg := tPkg, parts := State.reset.parts.set n p h }
theorem wit_RegisterWrites : (∀ fren : Bool, let p := { Partition.reset true with frlo := if fren then 1 else 0 }
      let s := sReg p 0 (by decide)
      s.linkUp = true ∧ s.hasFunction 0 = true ∧ s.hasFunction 1 = false ∧ (s.part 0).pen = true ∧ (s.part 0).fren = fren ∧ s.lines = [] ∧ s.sysRecs = [] ∧ p.binds = [] ∧ s.partBusy 0 = false) ∧
    (bit (0x20001 : Word) 0 = true ∧ fld (0x20001 : Word) 0 16 ≠ 0 ∧ bit (0 : Word) 0 = false ∧ bit (0x20001 : Word) 1 = false) ∧
    (let k : KeyEnt := { handle := 1, pkg := 3, out := [], in_ := [] }
     let p := { Partition.reset true with keys := [k], kpeer := 7 }
     (∃ k ∈ p.keys, k.handle = fld (0x20001 : Word) 0 16 ∧ k.pkg = p.kpeer / 2)) ∧
    (∀ off : Nat, off = 0x30000 ∨ off = 0x41000 → (0x30000 ≤ off ∧ (off < 0x40000 ∨ 0x41000 ≤ off) ∧ off % 4 = 0)) ∧
    (let s := sReg { Partition.reset false with ranges := #v[0x80010000, 0, 0, 0] } 1 (by decide)
     s.linkUp = true ∧ (s.part 1).pen = false ∧ s.clashes 1 (s.part 1) = true) ∧
    (let s := sReg (Partition.reset false) 1 (by decide)
     (s.part 1).pen = false ∧ s.clashes 1 (s.part 1) = false) ∧
    (sOf lOne).partBusy 0 = true := by
  refine ⟨by decide +kernel, by decide +kernel, ⟨_, by simp; rfl, by decide +kernel⟩, fun off h => by omega, by decide +kernel, by decide +kernel, by decide +kernel⟩
theorem test_pen_clash : (match exec (.penWrite 1 1) (sReg { Partition.reset false with ranges := #v[0x80010000, 0, 0, 0] } 1 (by decide)) with
    | .next t => ((t.part 1).pen, (t.part 1).pcerr)
    | _ => (true, false)) = (false, true) := by decide +kernel

/-! ### Attestation and the package -/

theorem wit_AttestationCommands : (let s := sReg { Partition.reset true with aarg := 3 } 0 (by decide)
      s.functionUp 0 = true ∧ (s.part 0).busy = false ∧ { s with pkg := { tPkg with didv := false } }.pkg.didv = false ∧
      (∀ k ∈ (s.part 0).keys, k.handle ≠ fld (s.part 0).aarg 0 12)) ∧
    (let r := (Partition.reset true).attRes
     let s := sReg { Partition.reset true with busy := true, cmdEnd := some r } 0 (by decide)
     s.functionUp 0 = true ∧ (s.part 0).busy = true ∧ (s.part 0).cmdEnd = some r) ∧
    (fld (0x04000001 : Word) 16 11 = 1024 ∧ fld (0x04000001 : Word) 0 3 = 1 ∧ 1024 < fld (0x04010001 : Word) 16 11 ∧ ∀ c ∈ [1, 2, 3, 4, 5, 6], fld (BitVec.ofNat 32 c) 0 3 = c) ∧
    (let k : KeyEnt := { handle := 3, pkg := 3, out := [], in_ := [] }
     let b : Binding := { peer := 7, handle := 3, sendHandle := 3, pktHandle := 0, olds := [] }
     ∀ bs ∈ [[b], []], let p := { Partition.reset true with aarg := 3, keys := [k], binds := bs }
      (∃ k ∈ p.keys, k.handle = fld p.aarg 0 12) ∧ (bs = [b] ↔ ∃ x ∈ p.binds, x.handle = fld p.aarg 0 12)) := by
  refine ⟨by decide +kernel, by decide +kernel, by decide +kernel, by decide +kernel⟩
/-- A QUOTE written while a NEWKEY runs is ignored and RES reads 1 (R416). -/
theorem test_attest_busy : (match exec (.newkey 0 3) (sReg (Partition.reset true) 0 (by decide)) with
    | .next t => (match exec (.quote 0 2) t with
      | .next u => ((t.part 0).busy, (u.part 0).res, ((u.pass 1).part 0).busy, ((u.pass 1).part 0).res)
      | _ => (false, 9, false, 9))
    | _ => (false, 9, false, 9)) = (true, 1, false, 0) := by decide +kernel

def sBoot (p : Package) : State := { State.reset with time := 700000000000, pkg := p }
theorem wit_PackageLife : ((sBoot Package.reset).pkg.power = false ∧ (115 : Nat) ≤ 115 ∧ ¬ (115 : Nat) ≤ 114) ∧
    (∀ n ∈ [1, 2, 3, 4, 5, 6, 8], let p := { Package.reset with power := true, stage := n }
      (sBoot p).pkg.power = true ∧ (sBoot p).pkg.fail = 0 ∧ (sBoot p).pkg.stage = n ∧ (sBoot p).pkg.everReady = false ∧ (sBoot p).pkg.didv = false ∧ (sBoot p).pkg.rate = 0) ∧
    ((sBoot { tPkg with fail := 3 }).pkg.fail ≠ 0 ∧ (sBoot tPkg).linkUp = true ∧ (sBoot tPkg).pkg.didv = true ∧ (sBoot tPkg).pkg.lastCheck + 10000 ≤ (sBoot tPkg).time ∧
      16 < tPkg.clks ∧ ({ tPkg with clks := 16 } : Package).clks ≤ 16 ∧ tPkg.limited = false ∧ ({ tPkg with limited := true } : Package).limited = true ∧
      (sBoot tPkg).time < ({ tPkg with lastCheck := 700000000000 } : Package).lastCheck + 10000 ∧ ({ tPkg with clks := 31 } : Package).clks < 32) ∧
    (Package.reset.power = false ∧ ({ Package.reset with power := true } : Package).everReady = false ∧ Package.reset.counted = false ∧ tPkg.power = true ∧ tPkg.everReady = true ∧ 32 < (-33 : Int).natAbs ∧ (-32 : Int).natAbs ≤ 32 ∧ tPkg.goodSyncs < 7 ∧ ({ tPkg with goodSyncs := 7 } : Package).goodSyncs = 7 ∧
      tabWf 0 0 tPkg.counters = true ∧ tPkg.clks ∈ List.range' 16 17 ∧ tPkg.clks ≤ 32 ∧ Counter.isFix 52 = true ∧ tget 0 tPkg.counters 52 < 2 ^ 32 - 1 ∧ tget 0 tPkg.counters 0 < 2 ^ 64 - 1) ∧
    (5 ≤ tPkg.stage ∧ tPkg.writing = none ∧ tPkg.shutting = false ∧ tPkg.lastWrite + 600000000000 ≤ (sBoot tPkg).time ∧ { sBoot tPkg with time := 5 }.time < tPkg.lastWrite + 600000000000 ∧
      bit (0x800 : Word) 11 = true) ∧
    (∀ o : Bool, ({ tPkg with writing := some { FlashSlot.empty with orderly := o } } : Package).writing = some { FlashSlot.empty with orderly := o }) ∧
    (Issues (sOf l32) l32 ∧ (sOf l32).unconfirmed l32.ref = false) :=
  ⟨by decide +kernel, by decide +kernel, by decide +kernel, by decide +kernel, by decide +kernel, fun _ => rfl, by decide +kernel⟩
/-- FIPS 197: the S-box of 0x53, and a MixColumns column. -/
theorem test_aes_sbox : subByte 0x53 = 0xED := by decide +kernel
theorem test_aes_mix : mixColumn [0xDB, 0x13, 0x53, 0x45] = [0x8E, 0x4D, 0xA1, 0xBC] := by decide +kernel
theorem test_power_on : (match exec .powerOn State.reset with
    | .next t => t.pkg.stage
    | _ => 0) = 1 := by decide +kernel
theorem test_sync_unlocks : (match exec (.syncMessage (-33)) (sBoot tPkg) with
    | .next t => (t.pkg.tblock, t.pkg.tbofs)
    | _ => (true, 0)) = (false, -33) := by decide +kernel

/-! ### Steps -/

/-- A line whose word at its pc is NOP, an ADD's, or no instruction, and which lane 0 of core 0 issues next. -/
def sStep (w : Nat) : State := { State.reset.withFetchWord 32 w with schedule := [{ ticks := 0, act := .issue 0 0 }] }
theorem wit_StepRunsTheDecodedInstruction : (∀ w ∈ [0xA9800000, 0x04010830, 0], let s := sStep w
      s.schedule = [{ ticks := 0, act := .issue 0 0 }] ∧
      (match (s.begin { ticks := 0, act := .issue 0 0 } []).inOrder (.issue 0 0) with
       | some u =>
         let v := u.betweenBlocks 0 0
         match v.pick 0 0 with
         | some (l, _) => ((v.prepare l).line l.ref).isSome &&
            v.icache.any fun (c : ICLine) => decide (c.core = l.core) && decide (c.part = l.part) && decide (c.va = (v.prepare l).codeVa l / 128)
         | none => false
       | none => false) = true) ∧
    (sStep 0).pick 5 0 = none ∧ Instr.isWord (.placement 0) = false ∧ (∀ w, Instr.placement 0 ≠ .illegalInstruction w) := by
  refine ⟨?_, by decide +kernel, rfl, fun w h => by cases h⟩
  intro w hw
  simp only [List.mem_cons, List.not_mem_nil, or_false] at hw
  obtain rfl | rfl | rfl := hw <;> exact ⟨rfl, by decide +kernel⟩
/-- In the cycle of a copy queue's request a line's access is not performed any more (R179). -/
theorem wit_StepRunsTheDecodedInstruction_order : (let a := tAcc .sent .store
     let e : Sched := { ticks := 0, act := .event (.slicePerform a.id), same := true }
     let s : State := { sFly a with inCycle := [3, 0, 0], schedule := [e] }
     let t := s.begin e []
     t.flight.find? (fun b => decide (b.id = a.id)) = some a ∧ a.issuer = .line lOne.ref 0 ∧ t.inCycle = 3 :: [0, 0] ∧ t.inOrder e.act = none) := by decide +kernel
theorem test_cycle_order : (match step { sFly (tAcc .sent .store) with inCycle := [3, 0, 0], schedule := [{ ticks := 0, act := .event (.slicePerform 1), same := true }] } with
    | .next t => t.flight.map Access.phase
    | _ => []) = [.sent] := by decide +kernel
theorem test_step_nop : (match step (sStep 0xA9800000) with
    | .next t => t.lines.map fun l => (l.pc, l.status)
    | _ => []) = [(4, .ready)] := by decide +kernel
theorem test_step_illegal : (match step (sStep 0) with
    | .next t => t.lines.map fun l => (l.status, l.record.cls)
    | _ => []) = [(.trapped, 0x01)] := by decide +kernel

theorem wit_EveryStepGoesOn : Issues (sOf l32) l32 ∧ Instr.isWord (.placement 0) = false ∧ (∀ w, Instr.placement 0 ≠ .illegalInstruction w) ∧
    Instr.isWord .nop = true ∧ State.reset.cur = none := ⟨by decide +kernel, rfl, fun w h => (by cases h), rfl, rfl⟩
theorem wit_EveryStepKeepsTheMemoryForm : (match step State.reset with | .next _ => true | _ => false) = true ∧ State.reset.memWf ∧
    (∀ c ∈ State.reset.sets, Memory.wf c.spad = true) ∧ ∀ g ∈ State.reset.grids, ∀ im ∈ g.images, Memory.wf im.set.spad = true :=
  ⟨by decide +kernel, by decide +kernel, by decide +kernel, by decide +kernel⟩
theorem wit_WordsLeavePrivilegedStateAlone : Instr.isWord .nop = true ∧ Issues (sOf l32) l32 ∧ l32.pl = false ∧ ∃ t, exec .nop (sOf l32) = .next t :=
  ⟨rfl, by decide +kernel, rfl, ⟨_, rfl⟩⟩

end Sys2Proof.Tests
end

section
/-!
SUPPORT. The divergence stack (R50, R51): its pops before a fetch, and what a P-format branch does.
-/
namespace Sys2Proof.Machine

/-! ### Pops before a fetch (R51) -/

theorem Line.pops_of_apart (l : Line) (h : l.pc ≠ l.crv ∨ l.depth = 0) : l.pops = l := by
  have hstop : ¬ (l.pc = l.crv ∧ 0 < l.depth) := fun ⟨hpc, hd⟩ => h.elim (· hpc) hd.ne'
  unfold Line.pops
  cases l.depth with
  | zero => rfl
  | succ n => exact if_neg hstop

theorem Line.pops_of_met (l : Line) (hpc : l.pc = l.crv) (hd : 0 < l.depth) : l.pops = l.pop.pops := by
  obtain ⟨n, hn⟩ : ∃ n, l.depth = n + 1 := ⟨l.depth - 1, by omega⟩
  have hpop : l.pop.depth = n := by simp [Line.pop, hn]
  rw [Line.pops, Line.pops, hn, hpop]
  exact if_pos ⟨hpc, hd⟩

/-- A property of lines that a pop passes back, and that a line has which does not pop, holds of every line. -/
theorem Line.pops_induction {P : Line → Prop} (apart : ∀ l, l.pc ≠ l.crv ∨ l.depth = 0 → P l)
    (met : ∀ l, l.pc = l.crv → 0 < l.depth → P l.pop → P l) (l : Line) : P l := by
  by_cases h : l.pc ≠ l.crv ∨ l.depth = 0
  · exact apart l h
  · obtain ⟨hpc, hd⟩ := not_or.mp h
    have hd : 0 < l.depth := Nat.pos_of_ne_zero hd
    exact met l (not_not.mp hpc) hd (Line.pops_induction apart met l.pop)
termination_by l.depth
decreasing_by exact Nat.sub_lt hd Nat.one_pos

theorem Line.pops_apart (l : Line) : l.pops.pc ≠ l.pops.crv ∨ l.pops.depth = 0 := by
  induction l using Line.pops_induction with
  | apart l h => rwa [l.pops_of_apart h]
  | met l hpc hd ih => rwa [l.pops_of_met hpc hd]

theorem Line.pops_depth_le (l : Line) : l.pops.depth ≤ l.depth := by
  induction l using Line.pops_induction with
  | apart l h => rw [l.pops_of_apart h]
  | met l hpc hd ih =>
    rw [l.pops_of_met hpc hd]
    exact ih.trans (Nat.sub_le l.depth 1)

@[simp] theorem Line.pops_ref (l : Line) : l.pops.ref = l.ref := by
  induction l using Line.pops_induction with
  | apart l h => rw [l.pops_of_apart h]
  | met l hpc hd ih => exact (congrArg Line.ref (l.pops_of_met hpc hd)).trans ih

theorem popsUntilApart : PopsUntilApart := fun l =>
  ⟨l.pops_apart, l.pops_depth_le, l.pops_of_apart, l.pops_of_met⟩

theorem popsBeforeTheFetch : PopsBeforeTheFetch := by
  intro s l h
  have hset : (s.setLine l.pops).line l.pops.ref = some l.pops := State.line_setLine s l.pops (by simp [h])
  rwa [l.pops_ref] at hset

/-- Settles O13: each pop lowers the depth, and the pops go on exactly while pc equals crv on a stack that is not empty. -/
theorem reconvergenceStack : Obligations.ReconvergenceStack := ⟨popsUntilApart, popsBeforeTheFetch⟩

/-! ### The threads in which a branch is taken (R319) -/

theorem getLsbD_maskBit (i j : Nat) (hj : j < 64) : (maskBit i).getLsbD j = decide (i = j) := by
  rw [maskBit, BitVec.getLsbD_ofNat, Nat.testBit_two_pow]
  simp [hj]

theorem getLsbD_foldl_maskBit (xs : List Nat) (m : DWord) (j : Nat) (hj : j < 64) :
    (xs.foldl (fun m i => m ||| maskBit i) m).getLsbD j = (m.getLsbD j || decide (j ∈ xs)) := by
  induction xs generalizing m with
  | nil => simp
  | cons i xs ih => simp [ih, getLsbD_maskBit i j hj, Bool.or_assoc, eq_comm]

theorem Line.getLsbD_taken (l : Line) (p : Nat) (inv : Bool) (j : Nat) (hj : j < 64) :
    (l.taken p inv).getLsbD j = (decide (j < l.width) && l.active.getLsbD j && (l.p j p != inv)) := by
  rw [Line.taken, getLsbD_foldl_maskBit _ _ _ hj]
  simp only [Line.isActive, List.mem_filter, List.mem_range, Bool.decide_and, Bool.decide_coe, BitVec.ofNat_eq_ofNat,
    BitVec.getLsbD_zero, Bool.false_or, Bool.and_assoc]

/-! ### A branch on a line (R50, R318) -/

section
variable (l : Line) (t : DWord) (tgt : Word)

theorem branch_none_taken : branch l 0 tgt = .ok { l with rp := false, pc := l.pc + 4 } := rfl

variable {t}

theorem branch_all_taken (ht : t ≠ 0) (hn : l.active &&& ~~~t = 0) : branch l t tgt = .ok { l with rp := false, pc := tgt } := by
  rw [branch, if_neg ht, if_pos hn]

variable (ht : t ≠ 0) (hn : l.active &&& ~~~t ≠ 0)
include ht hn

theorem branch_no_address (hp : l.rp = false) : branch l t tgt = .error 0x1C := by
  rw [branch, if_neg ht, if_neg hn, hp]
  rfl

theorem branch_full (hp : l.rp = true) (hd : 16 < l.depth + if l.ra = l.crv then 1 else 2) : branch l t tgt = .error 0x1D := by
  simp only [branch, if_neg ht, if_neg hn, hp, hd, Bool.not_true, Bool.false_eq_true, if_false, if_true]

/-- Inside a region that meets at the pending address already, the taken threads alone are pushed. -/
theorem branch_divided_same (hp : l.rp = true) (hr : l.ra = l.crv) (hd : l.depth + 1 ≤ 16) :
    branch l t tgt = .ok { ({ l with rp := false } : Line).push { pc := tgt, rcv := l.ra, mask := t } with
      active := l.active &&& ~~~t, crv := l.ra, pc := l.pc + 4 } := by
  simp only [branch, if_neg ht, if_neg hn, hp, hr, Nat.not_lt.mpr hd, Bool.not_true, Bool.false_eq_true, if_false, if_true]

/-- Elsewhere the threads that meet at the pending address are pushed first, and the taken threads above them. -/
theorem branch_divided_new (hp : l.rp = true) (hr : l.ra ≠ l.crv) (hd : l.depth + 2 ≤ 16) :
    branch l t tgt = .ok { (({ l with rp := false } : Line).push { pc := l.ra, rcv := l.crv, mask := l.active }).push
      { pc := tgt, rcv := l.ra, mask := t } with active := l.active &&& ~~~t, crv := l.ra, pc := l.pc + 4 } := by
  simp only [branch, if_neg ht, if_neg hn, hp, hr, Nat.not_lt.mpr hd, Bool.not_true, Bool.false_eq_true, if_false]

end

/-! ### The branch as an instruction -/

theorem State.endRun_of_none (s : State) (l : Line) (h : l.takeRun = none) : s.endRun l = s := by
  simp [State.endRun, h]

/-- The request that ends an open `.take` run carries the pc of the line that it is given. -/
theorem State.endRun_bankQ_pc (s : State) (l m : Line) (run : Run) (hl : l.takeRun = some run) (hm : m.takeRun = some run)
    (h : (s.endRun m).bankQ = (s.endRun l).bankQ) : m.pc = l.pc := by
  simp only [State.endRun, hl, hm, State.fresh, List.append_cancel_left_eq, List.cons.injEq, BankReq.mk.injEq] at h
  tauto

theorem State.afterLine_bankQ (s : State) (l l' : Line) : (s.afterLine l l').bankQ = (s.endRun l).bankQ := rfl

section
variable {s : State} {l m : Line} {p : Fin 8} {inv : Bool} {o : BitVec 22}

theorem exec_br (s : State) (p : Fin 8) (inv : Bool) (o : BitVec 22) : exec (.br p inv o) s = execBr p inv o s := rfl

theorem exec_br_ok (h : Issues s l) (hb : branch l (l.taken p inv) (target l.pc o) = .ok m) :
    exec (.br p inv o) s = .next (s.afterLine m { m.next with pc := m.pc, takeRun := none }) := by
  simp [exec_br, execBr, uniformTo, onLine_issues s l _ h, anyTy, hb, State.afterLine]

theorem exec_br_error {c : Nat} (h : Issues s l) (hb : branch l (l.taken p inv) (target l.pc o) = .error c) :
    exec (.br p inv o) s = .next (faultAt s l (.br p inv o) 0 { cls := c }) := by
  simp [exec_br, execBr, uniformTo, onLine_issues s l _ h, anyTy, hb]

theorem jumpsTo_br {to_ : Word} (h : Issues s l) (hl : l.takeRun = none) (hm : m.takeRun = none)
    (hb : branch l (l.taken p inv) (target l.pc o) = .ok { m with pc := to_ }) : JumpsTo (.br p inv o) s l m to_ := by
  rw [JumpsTo, exec_br_ok h hb, State.afterLine, State.afterLine, s.endRun_of_none l hl, s.endRun_of_none { m with pc := to_ } hm]
  rfl

/-- On a line whose earlier writes are confirmed the fault of a branch is taken at once. -/
theorem exec_br_trap {c : Nat} (h : Issues s l) (hc : s.unconfirmed l.ref = false) (hp : c ≠ 0x07 ∧ c ≠ 0x08)
    (hb : branch l (l.taken p inv) (target l.pc o) = .error c) :
    exec (.br p inv o) s = .next (s.trapEntry l { cls := c } l.pc 0 l.pc (iword (.br p inv o)) 0) := by
  rw [exec_br_error h hb, faultAt_confirmed 0 _ hc]
  simp [pageMask, hp]

/-- R50, R318, R319 on a line without an open `.take` run: a branch whose taken threads are T and whose active threads not taken are N.
The lines of `Tests.wit_BranchDiverges` are such. -/
theorem branch_diverges_of_no_run (h : Issues s l) (hl : l.takeRun = none) :
    let T := l.taken p inv
    let N := l.active &&& ~~~T
    let tgt := target l.pc o
    let i := Instr.br p inv o
    let l1 := { l with rp := false }
    let taken : StackEntry := { pc := tgt, rcv := l.ra, mask := T }
    let join : StackEntry := { pc := l.ra, rcv := l.crv, mask := l.active }
    (T = 0 → JumpsTo i s l l1 (l.pc + 4)) ∧
    (T ≠ 0 → N = 0 → JumpsTo i s l l1 tgt) ∧
    (T ≠ 0 → N ≠ 0 → l.rp = true → l.ra = l.crv → l.depth + 1 ≤ 16 →
      JumpsTo i s l { l1.push taken with active := N, crv := l.ra } (l.pc + 4)) ∧
    (T ≠ 0 → N ≠ 0 → l.rp = true → l.ra ≠ l.crv → l.depth + 2 ≤ 16 →
      JumpsTo i s l { (l1.push join).push taken with active := N, crv := l.ra } (l.pc + 4)) ∧
    (s.unconfirmed l.ref = false → T ≠ 0 → N ≠ 0 →
      (l.rp = false → exec i s = .next (s.trapEntry l { cls := 0x1C } l.pc 0 l.pc (iword i) 0)) ∧
      (l.rp = true → 16 < l.depth + (if l.ra = l.crv then 1 else 2) →
        exec i s = .next (s.trapEntry l { cls := 0x1D } l.pc 0 l.pc (iword i) 0))) :=
  ⟨fun ht => jumpsTo_br h hl hl (ht ▸ branch_none_taken l _),
   fun ht hn => jumpsTo_br h hl hl (branch_all_taken l _ ht hn),
   fun ht hn hp hr hd => jumpsTo_br h hl hl (branch_divided_same l _ ht hn hp hr hd),
   fun ht hn hp hr hd => jumpsTo_br h hl hl (branch_divided_new l _ ht hn hp hr hd),
   fun hc ht hn => ⟨fun hp => exec_br_trap h hc (by decide) (branch_no_address l _ ht hn hp),
    fun hp hd => exec_br_trap h hc (by decide) (branch_full l _ ht hn hp hd)⟩⟩

/-- The end of an open run enters its request with the pc to which the branch goes, so `JumpsTo`, which has it enter with the pc of the branch,
fails of a branch that goes anywhere else. -/
theorem pc_of_jumpsTo_br {l' : Line} {to_ : Word} {run : Run} (h : Issues s l) (hl : l.takeRun = some run) (hm : m.takeRun = some run)
    (hb : branch l (l.taken p inv) (target l.pc o) = .ok m) (hj : JumpsTo (.br p inv o) s l l' to_) : m.pc = l.pc := by
  rw [JumpsTo, exec_br_ok h hb] at hj
  have hq := congrArg State.bankQ (Host.Outcome.next.inj hj)
  rw [State.afterLine_bankQ, State.afterLine_bankQ] at hq
  exact s.endRun_bankQ_pc l m run hl hm hq

end

/-- A line of one thread, whose p1 is false, with an open `.take` run on granule 0 of its set's window. -/
def lineInRun : Line :=
  { Line.launch { grid := 1, set := 0, line := 0 } 1 32 16 with takeRun := some { set := { grid := 1, set := 0 }, gran := 0, id := 1 } }

/-- The machine in which it issues. -/
def stateInRun : State := { State.reset with cur := some lineInRun.ref, lines := [lineInRun], nextId := 2 }

theorem lineInRun_issues : Issues stateInRun lineInRun := by decide

/-- Refutes O12: the statement admits a line with an open `.take` run. The branch then enters the request that ends the run (R153) with the
pc at which the line goes on, here 4, where the statement has the pc of the branch, here 0. Without an open run every clause holds
(`branch_diverges_of_no_run`). -/
theorem not_branchDiverges : ¬ Obligations.BranchDiverges := by
  intro h
  have hT : ∀ j < 64, (0 : DWord).getLsbD j = (decide (j < lineInRun.width) && lineInRun.active.getLsbD j && (lineInRun.p j (1 : Fin 8) != false)) := by
    decide
  have ht : lineInRun.taken (1 : Fin 8) false = 0 :=
    BitVec.eq_of_getLsbD_eq fun j hj => (lineInRun.getLsbD_taken _ _ j hj).trans (hT j hj).symm
  obtain ⟨hfall, -⟩ := h stateInRun lineInRun 1 false 0 0 lineInRun_issues (by decide) hT
  have hpc := pc_of_jumpsTo_br lineInRun_issues rfl rfl (ht ▸ branch_none_taken lineInRun _) (hfall rfl)
  exact absurd hpc (by decide)

end Sys2Proof.Machine
end

section
/-!
SUPPORT. The registers that are fixed and the pairs (R59), and what the line-uniform instructions on registers come to (R233, R234, R238,
R254 to R256).
-/
namespace Sys2Proof.Machine

/-! ### The registers that read zero or true (R59) -/

section
variable (l : Line) (j : Nat)

@[simp] theorem Line.x_zero : l.x j 0 = 0 := rfl
@[simp] theorem Line.xd_zero : l.xd j 0 = 0 := rfl
@[simp] theorem Line.kr_zero : l.kr 0 = 0 := rfl
@[simp] theorem Line.kd_zero : l.kd 0 = 0 := rfl
@[simp] theorem Line.p_zero : l.p j 0 = true := rfl
@[simp] theorem Line.setX_zero (v : Word) : l.setX j 0 v = l := rfl
@[simp] theorem Line.setXd_zero (w : DWord) : l.setXd j 0 w = l := rfl
@[simp] theorem Line.setK_zero (v : Word) : l.setK 0 v = l := rfl
@[simp] theorem Line.setP_zero (v : Bool) : l.setP j 0 v = l := rfl

/-! ### Pairs of x registers (R59) -/

variable {l j} {n m : Nat}

@[simp] theorem Line.setX_length (v : Word) : (l.setX j n v).threads.length = l.threads.length := by
  by_cases hn : n = 0 <;> simp [Line.setX, Line.updThread, hn]

/-- A register of a thread after a write to a register of it. -/
theorem Line.x_setX (v : Word) (hj : j < l.threads.length) (hn : n ≠ 0) (h32 : n < 32) :
    (l.setX j n v).x j m = if m = n then v else l.x j m := by
  have ht : (l.setX j n v).thread j = { l.thread j with x := (l.thread j).x.setIfInBounds n v } := by
    rw [Line.setX, if_neg hn, thread_updThread _ _ _ hj]
  by_cases hm : m = 0
  · subst hm
    simp [hn.symm]
  · by_cases h : m = n
    · subst h
      simp [Line.x, ht, hm, Vector.getD, h32]
    · simp [Line.x, ht, hm, h, Vector.getD, Ne.symm h]

theorem Line.xd_eq_append (hn : n ≠ 0) : l.xd j n = l.x j (n + 1) ++ l.x j n := if_neg hn

/-- The low word of a pair stands in the register that names it, the high word in the next. -/
theorem Line.x_setXd (w : DWord) (hj : j < l.threads.length) (hn : n ≠ 0) (h32 : n + 1 < 32) :
    (l.setXd j n w).x j n = w.setWidth 32 ∧ (l.setXd j n w).x j (n + 1) = (w >>> 32).setWidth 32 := by
  have hlen : j < (l.setX j n (w.setWidth 32)).threads.length := by simpa using hj
  rw [Line.setXd, if_neg hn]
  constructor
  · rw [Line.x_setX _ hlen n.succ_ne_zero h32, if_neg n.succ_ne_self.symm, Line.x_setX _ hj hn (by omega), if_pos rfl]
  · rw [Line.x_setX _ hlen n.succ_ne_zero h32, if_pos rfl]

end

/-! ### A line-uniform instruction that completes -/

section
variable {i : Instr} {ops ty : Line → Bool} {s : State} {l : Line}

theorem Line.pendingK_of_ready {ks : List Nat} (h : readyRegs l [] ks) : l.pendingK ks = none := by
  obtain ⟨-, hk, -⟩ := h
  simpa [Line.pendingK] using hk

/-- The end of an open run (R153) does not look at the k registers. -/
@[simp] theorem State.endRun_setK (n : Nat) (v : Word) : s.endRun (l.setK n v) = s.endRun l := by
  by_cases h : n = 0
  · rw [h, Line.setK_zero]
  · rw [Line.setK, if_neg h]
    rfl

/-- A line-uniform instruction whose function answers `l'` completes with it, when the run that ends then is the run of `l`. -/
theorem lineTo_uniform {f : State → Line → TRes} {l' : Line} (h : Issues s l) (he : exec i s = uniform i ops ty f s) (ho : ops l = true)
    (ht : ty l = true) (hf : f s l = .ok s l') (hr : s.endRun l' = s.endRun l) : LineTo i s l l' := by
  rw [LineTo, he, uniform_ok h ho ht hf, State.finish, hr, State.afterLine]

theorem lineTo_uniformK {d : Fin 32} {ks : List Nat} {g : State → Line → Word} {v : Word} (h : Issues s l)
    (he : exec i s = uniformK i ops (.r d) ks g s) (ho : ops l = true) (hk : readyRegs l [] (d :: ks)) (hv : g s l = v) :
    LineTo i s l (l.setK d v) := by
  refine lineTo_uniform h he ho rfl ?_ (s.endRun_setK d v)
  simp only [Fld.num, Line.pendingK_of_ready hk, hv]

theorem lineTo_kalu {d a b : Fin 32} {g : Word → Word → Word} {v : Word} (h : Issues s l)
    (he : exec i s = kalu i (.r d) (.r a) (.r b) g s) (hd : l.okK false d = true) (ha : l.okK false a = true) (hb : l.okK false b = true)
    (hk : readyRegs l [] [d, a, b]) (hv : g (l.kr a) (l.kr b) = v) : LineTo i s l (l.setK d v) :=
  lineTo_uniformK h he (by simp [Line.okKf, hd, ha, hb]) hk hv

end

/-! ### KALU and the immediates of k registers (R233, R238) -/

theorem kshlW_eq (x y : Word) : kshlW x y = x <<< y.toNat := by
  rw [kshlW, ite_eq_right_iff]
  exact fun h => (BitVec.shiftLeft_eq_zero h).symm

theorem kshrW_eq (x y : Word) : kshrW x y = x >>> y.toNat := by
  rw [kshrW, ite_eq_right_iff]
  exact fun h => (BitVec.ushiftRight_eq_zero h).symm

theorem ksraW_eq (x y : Word) : ksraW x y = x.sshiftRight y.toNat := by
  by_cases h : 32 ≤ y.toNat
  · ext i hi
    have hs : ¬ y.toNat + i < 32 := by omega
    simp [ksraW, h, BitVec.getElem_sshiftRight, hs]
  · rw [ksraW, if_neg h]

/-- Two words that are equal are not less the one than the other, so a choice by ≤ is a choice by < where it makes no difference then. -/
theorem ite_toInt_le {α : Type} {x y : Word} {u v : α} (h : x = y → u = v) :
    (if x.toInt ≤ y.toInt then u else v) = if x.slt y then u else v := by
  simp only [BitVec.slt_iff_toInt_lt]
  rcases lt_trichotomy x.toInt y.toInt with hlt | heq | hgt
  · rw [if_pos hlt.le, if_pos hlt]
  · rw [if_pos heq.le, if_neg heq.not_lt, h (BitVec.toInt_inj.mp heq)]
  · rw [if_neg hgt.not_ge, if_neg hgt.not_gt]

theorem setWidth_shl_eq_append {w : Nat} (x : BitVec w) (n : Nat) : x.setWidth (w + n) <<< n = x ++ 0#n := by
  ext i hi
  by_cases h : i < n
  · simp [BitVec.getElem_append, h]
  · simp [BitVec.getElem_append, h, BitVec.getLsbD_eq_getElem (show i - n < w by omega)]

theorem kaluWritesItsResult : KaluWritesItsResult := by
  intro s l d a b imm up h hd
  refine ⟨fun ha hb hk => ?kalu, fun ha hk => ?addki, fun hk => ?luik⟩
  case kalu =>
    have gives {i : Instr} {g : Word → Word → Word} {v : Word} (he : exec i s = kalu i (.r d) (.r a) (.r b) g s)
        (hv : g (l.kr a) (l.kr b) = v) : LineTo i s l (l.setK d v) := lineTo_kalu h he hd ha hb hk hv
    refine ⟨gives rfl rfl, gives rfl rfl, gives rfl rfl, gives rfl rfl, gives rfl rfl, gives rfl rfl, gives rfl (kshlW_eq _ _),
      gives rfl (kshrW_eq _ _), gives rfl (ksraW_eq _ _), ?min, ?max⟩
    case min => exact gives (show _ = execKmin (.r d) (.r a) (.r b) s from rfl) (ite_toInt_le id)
    case max => exact gives (show _ = execKmax (.r d) (.r a) (.r b) s from rfl) (ite_toInt_le Eq.symm)
  case addki =>
    have he : exec (.addki (.r d) (.r a) imm) s = execAddki (.r d) (.r a) imm s := rfl
    exact lineTo_uniformK h he (by simp [Line.okKf, hd, ha]) hk rfl
  case luik =>
    have he : exec (.luik (.r d) up) s = execLuik (.r d) up s := rfl
    exact lineTo_uniformK h he hd hk (setWidth_shl_eq_append up 12)

/-! ### The fixed registers and the pairs -/

theorem Line.okX_dbl_odd (l : Line) (n : Nat) (h : n % 2 = 1) : l.okX true n = false := by simp [Line.okX, h]

/-- A MOV between registers one of which cannot be named faults before any thread issues. -/
theorem exec_mov_illegal {s : State} {l : Line} {n m : Fin 32} (h : Issues s l) (ht : l.tri = 0) (hc : s.unconfirmed l.ref = false)
    (ho : l.okX l.ty.dbl n = false ∨ l.okX l.ty.dbl m = false) :
    exec (.mov (.r n) (.x m)) s = .next (s.trapEntry l { cls := 0x03 } l.pc 0 l.pc (iword (.mov (.r n) (.x m))) 0) := by
  have hl : ({ l with tri := 0 } : Line) = l := ht ▸ rfl
  have he : exec (.mov (.r n) (.x m)) s = execMov (.r n) (.x m) s := rfl
  have hops : (l.okDst l.ty.dbl (.r n) && l.okSrc false l.ty.dbl (.x m)) = false := by
    rwa [Bool.and_eq_false_iff]
  rw [he, execMov, compute2, perThread, onLine_issues s l _ h, hops, hl]
  simp [faultAt_confirmed 0 _ hc, pageMask]

theorem fixedRegistersAndPairs : FixedRegistersAndPairs := by
  refine ⟨fun l j v w => ⟨l.x_zero j, l.xd_zero j, l.kr_zero, l.kd_zero, l.p_zero j, l.setX_zero j v, l.setXd_zero j w, l.setK_zero v,
    l.setP_zero j false, fun n hn heven => ?pair⟩, fun s l n m h hdbl ht hc hodd => ?odd⟩
  case pair =>
    have hn : n.val ≠ 0 := fun h => hn (Fin.ext h)
    exact ⟨Line.xd_eq_append hn, fun hj => Line.x_setXd w hj hn (by omega)⟩
  case odd =>
    refine exec_mov_illegal h ht hc ?_
    rw [hdbl]
    exact hodd.imp (l.okX_dbl_odd n) (l.okX_dbl_odd m)

/-! ### The line-uniform moves (R234, R254 to R256) -/

/-- The lowest thread of the active mask, by what makes it so. -/
theorem Line.lowest_eq {l : Line} {j : Nat} (hle : ∀ k < l.width, l.isActive k = true → j ≤ k) (hj : j < l.width) (ha : l.isActive j = true) :
    l.lowest = j := by
  have hfind : (List.range l.width).find? l.isActive = some j :=
    List.find?_range_eq_some.mpr ⟨ha, List.mem_range.mpr hj, fun k hk => ?_⟩
  · rw [Line.lowest, List.head?_filter, hfind, Option.getD_some]
  · rw [Bool.not_eq_true', Bool.eq_false_iff]
    exact fun hk' => hk.not_ge (hle k (hk.trans hj) hk')

theorem setIfInBounds_eq_set {α : Type} {n i : Nat} (xs : Vector α n) (h : i < n) (a : α) : xs.setIfInBounds i a = xs.set i a h := by
  ext k hk
  rw [Vector.getElem_setIfInBounds, Vector.getElem_set]

theorem lineMovesWriteTheirValues : LineMovesWriteTheirValues := by
  intro s l d a b e imm h
  refine ⟨fun hty hrm => ?mode, fun ha hb hk => ?xseed, fun hd hk => ⟨?rdlm, fun hm => ?rdks⟩, fun ha hk hm => ?wrks,
    fun hd0 hd hk => ?rdtime, fun hd ha hr j hle hj hact => ?movkx⟩
  case mode =>
    have he : exec (.mode imm) s = execMode imm s := rfl
    exact lineTo_uniform h he rfl (by simp [modeOk, hty, hrm]) rfl rfl
  case xseed =>
    have he : exec (.xseed e (.r a) (.r b)) s = execXseed e (.r a) (.r b) s := rfl
    refine lineTo_uniform h he (by simp [Line.okKf, ha, hb]) rfl ?_ rfl
    simp only [Fld.num, Line.pendingK_of_ready hk]
    rw [setIfInBounds_eq_set _ e.isLt]
  case rdlm =>
    have he : exec (.rdlm (.r d)) s = execRdlm (.r d) s := rfl
    exact lineTo_uniformK h he hd hk rfl
  case rdks =>
    have he : exec (.rdks (.r d)) s = execRdks (.r d) s := rfl
    exact lineTo_uniform h he hd rfl (by simp [Fld.num, hm, Line.pendingK_of_ready hk]) (s.endRun_setK d _)
  case wrks =>
    have he : exec (.wrks (.r a)) s = execWrks (.r a) s := rfl
    exact lineTo_uniform h he ha rfl (by simp [Fld.num, hm, Line.pendingK_of_ready hk, kstatWrite]) rfl
  case rdtime =>
    have he : exec (.rdtime (.r d)) s = execRdtime (.r d) s := rfl
    refine lineTo_uniform h he ?_ rfl (by simp only [Fld.num, Line.pendingK_of_ready hk]) (by simp)
    simp [Line.okK2, Fld.num, hd, hd0]
  case movkx =>
    have he : exec (.movkx (.r d) (.r a)) s = execMovkx (.r d) (.r a) s := rfl
    refine lineTo_uniform h he (by simp [Line.okKf, Line.okXf, hd, ha]) rfl ?_ (s.endRun_setK d _)
    rw [Line.lowest_eq hle hj hact]
    exact ready_ok _ _ _ _ _ _ hr

/-- Settles O7: a line-uniform instruction completes with what its function answers, the fixed registers are the branches of the accessors,
and MOV refuses an odd pair with its operands. -/
theorem uniformResults : Obligations.UniformResults := ⟨kaluWritesItsResult, fixedRegistersAndPairs, lineMovesWriteTheirValues⟩

end Sys2Proof.Machine
end

section
/-!
SUPPORT. The floating-point instructions on registers (R239 to R243): the fields of a code and its class, and what an operation applied at the
line's type writes.
-/
namespace Sys2Proof.Machine

/-! ### The fields of a code (R88) -/

/-- The code of a sign, an exponent field and a fraction field, as R243 names its operand. -/
def Fmt.ofFields (f : Fmt) (neg : Bool) (e fr : Nat) : Nat := (if neg then f.signW else 0) + e * 2 ^ f.fbits + fr

section
variable {f : Fmt} {neg : Bool} {e fr : Nat}

theorem Fmt.ofFields_eq : f.ofFields neg e fr = 2 ^ f.fbits * (2 ^ f.ebits * neg.toNat + e) + fr := by
  cases neg <;> simp only [Fmt.ofFields, Fmt.signW, pow_add, Bool.toNat_true, Bool.toNat_false, if_true, Bool.false_eq_true, if_false] <;> ring

theorem Fmt.ofFields_fraction (hfr : fr < 2 ^ f.fbits) : f.ofFields neg e fr % 2 ^ f.fbits = fr := by
  rw [Fmt.ofFields_eq, Nat.mul_add_mod, Nat.mod_eq_of_lt hfr]

theorem Fmt.ofFields_div (hfr : fr < 2 ^ f.fbits) : f.ofFields neg e fr / 2 ^ f.fbits = 2 ^ f.ebits * neg.toNat + e := by
  rw [Fmt.ofFields_eq, Nat.mul_add_div (Nat.two_pow_pos _), Nat.div_eq_of_lt hfr, add_zero]

theorem Fmt.ofFields_exponent (he : e < 2 ^ f.ebits) (hfr : fr < 2 ^ f.fbits) :
    f.ofFields neg e fr / 2 ^ f.fbits % 2 ^ f.ebits = e := by
  rw [Fmt.ofFields_div hfr, Nat.mul_add_mod, Nat.mod_eq_of_lt he]

theorem Fmt.ofFields_sign (he : e < 2 ^ f.ebits) (hfr : fr < 2 ^ f.fbits) : f.ofFields neg e fr / f.signW % 2 = neg.toNat := by
  have hdiv : f.ofFields neg e fr / f.signW = neg.toNat := by
    rw [Fmt.signW, add_comm, pow_add, ← Nat.div_div_eq_div_mul, Fmt.ofFields_div hfr, Nat.mul_add_div (Nat.two_pow_pos _),
      Nat.div_eq_of_lt he, add_zero]
  rw [hdiv, Nat.mod_eq_of_lt neg.toNat_lt]

/-- In a wide format the largest exponent field alone stands for infinities and NaNs. -/
theorem Fmt.value_ofFields (hf : f.wide = true) (he : e < 2 ^ f.ebits) (hfr : fr < 2 ^ f.fbits) :
    f.value (f.ofFields neg e fr) =
      if e = 2 ^ f.ebits - 1 then
        if fr = 0 then .inf neg else .nan neg (decide (fr < 2 ^ (f.fbits - 1))) (fr % 2 ^ (f.fbits - 1)) (f.fbits - 1)
      else if e = 0 then .fin { neg, num := fr, den := 1, exp := f.emin - f.fbits }
      else .fin { neg, num := 2 ^ f.fbits + fr, den := 1, exp := e - f.bias - f.fbits } := by
  have hinf : f.hasInf = true ∧ f ≠ .e4m3 := by cases f <;> simp_all [Fmt.wide, Fmt.hasInf]
  simp [Fmt.value, Fmt.ofFields_sign he hfr, Fmt.ofFields_exponent he hfr, Fmt.ofFields_fraction hfr, hinf, Nat.div_eq_zero_iff]

/-! ### The classes of FCLASS (R243) -/

theorem fclassBit_ofFields (hf : f.wide = true) (he : e < 2 ^ f.ebits) (hfr : fr < 2 ^ f.fbits) :
    fclassBit f (f.ofFields neg e fr) =
      if e = 2 ^ f.ebits - 1 then
        (if fr = 0 then (if neg then 0 else 7) else if fr < 2 ^ (f.fbits - 1) then 8 else 9)
      else if e = 0 then
        (if fr = 0 then (if neg then 3 else 4) else (if neg then 2 else 5))
      else (if neg then 1 else 6) := by
  rw [fclassBit, Fmt.value_ofFields hf he hfr, Fmt.ofFields_exponent he hfr]
  by_cases hmax : e = 2 ^ f.ebits - 1
  · by_cases hzero : fr = 0 <;> simp [hmax, hzero]
  · obtain rfl | hsub := eq_or_ne e 0
    · simp [hmax]
    · simp [hmax, hsub]

end

theorem fclassTable : FclassTable := by
  intro f hf neg e fr he hfr
  have hw : f.wide = true := by
    simp only [List.mem_cons, List.not_mem_nil, or_false] at hf
    obtain rfl | rfl | rfl | rfl := hf <;> rfl
  exact fclassBit_ofFields hw he hfr

/-! ### An operation applied at the line's type -/

@[simp] theorem applyF_dr (g : FOp) (l : Line) (j : Nat) (x y z : DWord) : (applyF g l j x y z).dr = false := by
  unfold applyF
  split <;> rfl

theorem Line.rmOf_congr {m l : Line} {j : Nat} (hm : m.sameBut l) (h : m.thread j = l.thread j) : m.rmOf j = l.rmOf j := by
  have hst : m.fpst j = l.fpst j := congrArg Thread.fpst h
  obtain ⟨_, _, _, rfl⟩ := hm
  rw [Line.rmOf, hst]
  rfl

theorem applyF_congr {m l : Line} {j : Nat} (g : FOp) (x y z : DWord) (hm : m.sameBut l) (h : m.thread j = l.thread j) :
    applyF g m j x y z = applyF g l j x y z := by
  have hrm := Line.rmOf_congr hm h
  obtain ⟨_, _, _, rfl⟩ := hm
  simp only [applyF, hrm]
  rfl

/-- Field b of an instruction that leaves it unused reads zero (R59). -/
@[simp] theorem plainVal_noB (l : Line) (j : Nat) (dbl : Bool) : plainVal l j dbl noB = 0 := by
  cases dbl <;> rfl

/-! ### The instructions -/

section
variable {i : Instr} {s : State} {l : Line} {n : Fin 32} {a b : Src}

/-- A two-source instruction of FARITH whose operation does not read d. -/
theorem threadsTo_applyF {g : FOp} (hI : IssuesAll s l) (ht : arithTypes l = true) (h2 : plain2 l n a b)
    (he : exec i s = compute2 i (.r n) a b arithTypes (fun l j x y => applyF g l j x y 0) s)
    (hq : quietFlags l fun j => (applyF g l j (plainVal l j l.ty.dbl a) (plainVal l j l.ty.dbl b) 0).fl) :
    ThreadsTo i s l fun j t => t.result l.ty.dbl n (applyF g l j (plainVal l j l.ty.dbl a) (plainVal l j l.ty.dbl b) 0) :=
  he.trans <| compute2_plain i n a b arithTypes _ s l _ hI h2 ht (fun _ _ _ hm h => applyF_congr g _ _ _ hm h)
    fun j hj => ⟨hq j hj, applyF_dr ..⟩

/-- An instruction of FARITH without field b. -/
theorem threadsTo_applyF_noB {g : FOp} (hI : IssuesAll s l) (ht : arithTypes l = true) (h2 : plain2 l n a noB)
    (he : exec i s = compute2 i (.r n) a noB arithTypes (fun l j x y => applyF g l j x y 0) s)
    (hq : quietFlags l fun j => (applyF g l j (plainVal l j l.ty.dbl a) 0 0).fl) :
    ThreadsTo i s l fun j t => t.result l.ty.dbl n (applyF g l j (plainVal l j l.ty.dbl a) 0 0) := by
  have h := threadsTo_applyF (g := g) hI ht h2 he
  simp only [plainVal_noB] at h
  exact h hq

/-- FFMA and FFMS also read d, as a third plain operand. -/
theorem threadsTo_fused {sub : Bool} (hI : IssuesAll s l) (ht : arithTypes l = true) (h2 : plain2 l n a b)
    (he : exec i s = fused i sub (.r n) a b s) :
    let r (j : Nat) : Res := applyF (arith fun f rm x y z => fmaFV f rm x y z sub) l j (plainVal l j l.ty.dbl a) (plainVal l j l.ty.dbl b)
      (plainVal l j l.ty.dbl (.x n))
    quietFlags l (fun j => (r j).fl) → ThreadsTo i s l fun j t => t.result l.ty.dbl n (r j) := by
  intro r hq
  obtain ⟨ha, hb, hd, hoa, hob, hr⟩ := h2
  refine he.trans <| perThread_plain i l.ty.dbl l.ty.dbl l.ty.dbl a b (regs l.ty.dbl n) n _ arithTypes
    (fun m j x y => applyF (arith fun f rm x y z => fmaFV f rm x y z sub) m j x y (plainVal m j m.ty.dbl (.x n))) _
    (fun s m j v => writeDst i s m j m.ty.dbl (.r n) v) s l r hI ?operands ht ha hb ?thread ?write hr ?result
    fun j hj => ⟨hq j hj, applyF_dr ..⟩
  case operands => simp [Line.okXf, hd, hoa, hob]
  case thread =>
    intro m j hm
    rw [← Line.ty_congr m l hm]
    rfl
  case write =>
    intro m j st v hm
    rw [← Line.ty_congr m l hm]
    rfl
  case result =>
    intro m j _ hm h
    rw [applyF_congr _ _ _ _ hm h, Line.ty_congr m l hm, plainVal_congr m l j _ _ hm h]

/-- A result that raises nothing leaves the thread's fpst. -/
theorem Thread.result_quiet (t : Thread) (dbl : Bool) (v : DWord) : t.result dbl n { v } = t.put dbl n v := by
  have hfl : t.fpst ||| fpstFlags 0 = t.fpst := BitVec.or_zero
  rw [Thread.result, hfl, ← Thread.put_fpst]

/-- FCLASS reads its operand at the width of TYPE and writes one register. -/
theorem threadsTo_fclass (hI : IssuesAll s l) (ht : arithTypes l = true) (ha : plain a = true) (hd : l.okX false n = true)
    (hoa : l.okSrc false l.ty.dbl a = true) (hr : readyRegs l (a.xregs l.ty.dbl ++ [0, n.val]) (a.kregs l.ty.dbl)) :
    ThreadsTo (.fclass (.r n) a) s l fun j t =>
      t.put false n (BitVec.ofNat 64 (2 ^ fclassBit l.ty.fmt (lowCode l.ty (plainVal l j l.ty.dbl a)))) := by
  have he : exec (.fclass (.r n) a) s = execFclass (.r n) a s := rfl
  have hr' : readyRegs l (a.xregs l.ty.dbl ++ noB.xregs false ++ regs false n) (a.kregs l.ty.dbl ++ noB.kregs false) := by
    simpa [noB, Src.xregs, Src.kregs, regs] using hr
  have h := he.trans <| perThread_plain (.fclass (.r n) a) l.ty.dbl false false a noB (regs false n) n _ arithTypes
    (fun m _ x _ => { v := BitVec.ofNat 64 (2 ^ fclassBit m.ty.fmt (lowCode m.ty x)) }) _
    (fun s m j v => writeDst (.fclass (.r n) a) s m j false (.r n) v) s l
    (fun j => { v := BitVec.ofNat 64 (2 ^ fclassBit l.ty.fmt (lowCode l.ty (plainVal l j l.ty.dbl a))) }) hI ?operands ht ha rfl
    ?thread (fun _ _ _ _ _ => rfl) hr' ?result fun j _ => ⟨by simp [enabledOf, fpstFlags], rfl⟩
  · simp only [Thread.result_quiet] at h
    exact h
  case operands => simp [Line.okDst, hd, hoa]
  case thread =>
    intro m j hm
    rw [← Line.ty_congr m l hm]
    rfl
  case result =>
    intro m j _ hm _
    rw [Line.ty_congr m l hm]

end

theorem floatInstructionsWriteTheirResults : FloatInstructionsWriteTheirResults := by
  intro s l n a b hI ht
  refine ⟨fun h2 => ?binary, fun h2 => ?unary, fun ha hd hoa hr => threadsTo_fclass hI ht ha hd hoa hr⟩
  case binary =>
    exact ⟨threadsTo_applyF hI ht h2 rfl, threadsTo_applyF hI ht h2 rfl, threadsTo_applyF hI ht h2 rfl,
      threadsTo_fused hI ht h2 rfl, threadsTo_fused hI ht h2 rfl,
      threadsTo_applyF hI ht h2 rfl, threadsTo_applyF hI ht h2 rfl, threadsTo_applyF hI ht h2 rfl⟩
  case unary => exact ⟨threadsTo_applyF_noB hI ht h2 rfl, threadsTo_applyF_noB hI ht h2 rfl⟩

/-- Settles O4: the fields of a code give its value and so its class, and each instruction of FARITH on registers is an operation applied at
the line's type by a compute instruction whose threads raise no enabled exception. -/
theorem floatResults : Obligations.FloatResults := ⟨fclassTable, floatInstructionsWriteTheirResults⟩

end Sys2Proof.Machine
end
